-- ==== Sys2Proof/Word.lean ====
section
/-! DEFINITION. The words of the TS-40 and the pixel. -/

namespace Sys2Proof

/-- One byte of a message or of the tile memory. -/
abbrev Byte := BitVec 8

/-- A frame number, 0 to 65535, wrapping (00_scope.md, Conventions). -/
abbrev FrameNo := BitVec 16

/-- A refresh number, 0 to 65535, wrapping (R73). -/
abbrev Refresh := BitVec 16

/-- A set of station numbers 0 to 31, bit s for station s (11.3, member set). -/
abbrev StationSet := BitVec 32

/-- A set of parties 0 to 63, bit p for party p (11.3, party set). -/
abbrev PartySet := BitVec 64

/-- A pixel: four 8-bit channels R, G, B and A (R92). -/
structure Pixel where
  r : Byte
  g : Byte
  b : Byte
  a : Byte
  deriving DecidableEq, Repr

end Sys2Proof
end

