-- ==== Sys2Proof/Config.lean ====
section
/-! DEFINITION. The periods the manual fixes, in tenths of a microsecond, and the free values it leaves open. -/

namespace Sys2Proof.Config

/-- The top of the sync watch, 25 000.5 µs (R143, R147), in 0.1 µs. -/
def syncWatchLimit : Nat := 250005

/-- The nominal refresh period, 16 667 µs (R143, R148), in 0.1 µs. -/
def nominalPeriod : Nat := 166670

/-- The memory refresh period, 7.8 µs (R131), in 0.1 µs. -/
def memoryRefreshPeriod : Nat := 78

/-- FREE VALUE (R112, R114, R126; log 4). Whether the byte at an address that an abandoned burst was
writing holds its new value (true) or its old one, for the abandonment the counter selects. -/
opaque abandonedByteIsNew : Nat → Nat → Bool

/-- FREE VALUE (log 10). Whether the memory refresh expiry comes before the other timer's when both
fall in one tenth of a microsecond, for the occasion the counter selects. -/
opaque memoryRefreshFirst : Nat → Bool

end Sys2Proof.Config
end

