-- ==== Sys2Proof/Syntax.lean ====
section
/-! DEFINITION. The commands the station takes: one constructor of Instr for each row of the opcode table,
with what a message carries on the bus (chapters 1 and 11). -/

namespace Sys2Proof

/-- The 19 kinds of message (R4). -/
inductive Kind where
  | tick | suspect | join | leave | wallReset | orderLeave | orderRejoin | drop
  | ready | beacon | readReply | statusReport
  | openFrame | closeFrame | fill | run | readRequest | readCancel | statusQuery
  deriving DecidableEq, Repr

/-- The arbitration word, the header's body length, the body and the check code of a message as a
party hears it (R183). The header's kind code is the command's own. -/
structure Heard where
  /-- class in the 2 high bits, party number in the 6 low bits -/
  word : Byte
  /-- the body length the header states -/
  len : BitVec 16
  body : List Byte
  check : BitVec 16
  deriving DecidableEq, Repr

/-- The slots of the verdict field that parties other than this station assert (R8, R183). -/
structure Slots where
  /-- bit s set when the refusal slot of station s is asserted -/
  refusals : StationSet
  damage : Bool
  deriving DecidableEq, Repr

/-- What happens to one message at this station: its check code arrives, its verdict field passes,
or both with nothing between (R6, R8; log 5). -/
inductive MsgEvent where
  | checkCode (heard : Heard)
  | verdict (others : Slots)
  | whole (heard : Heard) (others : Slots)
  deriving DecidableEq, Repr

/-- The fields that FILL and RUN share (11.3). -/
structure WriteHead where
  frame : FrameNo
  x : BitVec 16
  y : BitVec 16
  width : BitVec 16
  height : BitVec 16
  op : BitVec 4
  mask : BitVec 4
  deriving DecidableEq, Repr

/-- The body of a READ_REPLY (R166, 11.3). -/
structure ReplyBody where
  requester : Byte
  tag : Byte
  frame : FrameNo
  chunk : BitVec 24
  x : BitVec 16
  y : BitVec 16
  count : Byte
  last : Bool
  pixels : List Pixel
  deriving DecidableEq, Repr

/-- A message body that reads without damage, by kind (11.3, R184). -/
inductive Message where
  | tick (refresh : Refresh)
  | suspect (station : Byte)
  | join (tile : Byte)
  | leave
  | wallReset
  | orderLeave (station : Byte)
  | orderRejoin (station : Byte)
  | drop (source : Byte)
  | ready (frame : FrameNo)
  | beacon (tile : Byte) (refresh : Refresh) (members : StationSet) (lastOpened : Option FrameNo)
  | readReply (body : ReplyBody)
  | statusReport (requester : Byte) (record : List Byte)
  /-- `colour` is present for CLEAR alone -/
  | openFrame (frame : FrameNo) (mode : Byte) (colour : Option Pixel) (sources : PartySet)
  | closeFrame (frame : FrameNo)
  | fill (head : WriteHead) (colour : Pixel)
  | run (head : WriteHead) (count : BitVec 16) (pixels : List Pixel)
  /-- `frame` is none for the selector CURRENT -/
  | readRequest (tag : Byte) (frame : Option FrameNo) (x y width height : BitVec 16)
  | readCancel (tag : Byte)
  | statusQuery (station : Byte) (clear : Bool)
  deriving DecidableEq, Repr

/-- The five requesters of the tile memory (R126). -/
inductive Requester where
  | scan | mref | apply | init | read
  deriving DecidableEq, Repr

/-- What a pulse comes from (R149). -/
inductive PulseSource where
  | wsyncEdge | syncLost | freeRunExpiry
  deriving DecidableEq, Repr

/-- The commands: one constructor for each row of the opcode table. -/
inductive Instr where
  | resetAssert
  /-- `pins`: the 17 strap pins in the order of 11.5, SN4 the most significant; `busBusy`: a message
  is on the bus at the release -/
  | resetRelease (pins : BitVec 17) (busBusy : Bool)
  | busIdle
  /-- `others`: the arbitration words of the other contenders -/
  | arbitration (others : List Byte)
  | tick (event : MsgEvent)
  | suspect (event : MsgEvent)
  | join (event : MsgEvent)
  | leave (event : MsgEvent)
  | wallReset (event : MsgEvent)
  | orderLeave (event : MsgEvent)
  | orderRejoin (event : MsgEvent)
  | drop (event : MsgEvent)
  | ready (event : MsgEvent)
  | beacon (event : MsgEvent)
  | readReply (event : MsgEvent)
  | statusReport (event : MsgEvent)
  | openFrame (event : MsgEvent)
  | closeFrame (event : MsgEvent)
  | fill (event : MsgEvent)
  | run (event : MsgEvent)
  | readRequest (event : MsgEvent)
  | readCancel (event : MsgEvent)
  | statusQuery (event : MsgEvent)
  | wsyncEdge
  | syncLost
  | freeRunExpiry
  | beaconWatchExpiry (source : PulseSource) (station : BitVec 5)
  | tickWatchExpiry (source : PulseSource)
  | listenTimeout (source : PulseSource)
  | joinWaitEnd (source : PulseSource)
  | stall (source : PulseSource)
  | blankingEnd
  | segmentTaken
  | memoryRefreshExpiry
  | requestAtIdleArbiter (requester : Requester)
  | scanBurstComplete
  | mrefBurstComplete
  | applyBurstComplete
  | initBurstComplete
  | readBurstComplete
  /-- `code`: the header's kind code -/
  | unknownKind (code : Byte) (event : MsgEvent)
  deriving DecidableEq, Repr

end Sys2Proof
end

