-- ==== Sys2Proof/Decode.lean ====
section
/-! DEFINITION. decodeTableWord (no row of the opcode table gives bits), and the bit-level reading and
writing of messages: kind codes, classes and sender ranges (R4, 11.2), the check code (R183), the bodies
(11.3, R184) and the strap pins (R186). -/

namespace Sys2Proof

/-- No row of spec/opcode_table.json gives the bits of a command word. -/
def decodeTableWord (_nbits _w : Nat) : Option Instr := none

/-! ## Kinds (R4, 11.2) -/

/-- The kind code of each kind (11.2). -/
def Kind.code : Kind → Byte
  | .tick => 0x00 | .suspect => 0x01 | .join => 0x02 | .leave => 0x03
  | .wallReset => 0x04 | .orderLeave => 0x05 | .orderRejoin => 0x06 | .drop => 0x07
  | .ready => 0x40 | .beacon => 0x41
  | .readReply => 0x80 | .statusReport => 0x81
  | .openFrame => 0xC0 | .closeFrame => 0xC1 | .fill => 0xC2 | .run => 0xC3
  | .readRequest => 0xC4 | .readCancel => 0xC5 | .statusQuery => 0xC6

/-- Every kind, in the order of 11.2. -/
def Kind.all : List Kind :=
  [.tick, .suspect, .join, .leave, .wallReset, .orderLeave, .orderRejoin, .drop, .ready, .beacon,
   .readReply, .statusReport, .openFrame, .closeFrame, .fill, .run, .readRequest, .readCancel,
   .statusQuery]

/-- The kind of a kind code, none for a code not in the table (R4). -/
def Kind.ofCode (c : Byte) : Option Kind := Kind.all.find? fun k => k.code == c

/-- The arbitration class of a kind (R4's table). -/
def Kind.cls : Kind → Nat
  | .tick | .suspect | .join | .leave | .wallReset | .orderLeave | .orderRejoin | .drop => 0
  | .ready | .beacon => 1
  | .readReply | .statusReport => 2
  | .openFrame | .closeFrame | .fill | .run | .readRequest | .readCancel | .statusQuery => 3

/-- Whether a party number lies in a kind's sender range (R4's table). -/
def Kind.senderFits (k : Kind) (party : Nat) : Bool :=
  match k with
  | .tick | .suspect | .join | .leave | .ready | .beacon | .readReply | .statusReport =>
    decide (party ≤ 31)
  | .wallReset | .orderLeave | .orderRejoin | .drop => decide (party ≤ 63)
  | .openFrame | .closeFrame | .fill | .run | .readRequest | .readCancel | .statusQuery =>
    decide (32 ≤ party ∧ party ≤ 63)

/-- The class in an arbitration word (R183). -/
def wordClass (w : Byte) : Nat := (w >>> 6).toNat

/-- The party number in an arbitration word: the sender of record (R183). -/
def wordParty (w : Byte) : Nat := (w &&& 0x3F).toNat

/-- The arbitration word of a class and a party number (R183). -/
def arbWord (cls party : Nat) : Byte := BitVec.ofNat 8 (64 * cls + party)

/-- A listed kind fits its arbitration word: its class and its sender range (R4). -/
def Kind.fits (k : Kind) (w : Byte) : Bool :=
  (k.cls == wordClass w) && k.senderFits (wordParty w)

/-- A header's kind code and arbitration word are those of an unknown kind (R4). -/
def isUnknownKind (code w : Byte) : Bool :=
  match Kind.ofCode code with
  | none => true
  | some k => !k.fits w

/-! ## The check code (R183) -/

/-- One step of the division by x^16 + x^12 + x^5 + 1, most significant bit first. -/
def crcBit (c : BitVec 16) : BitVec 16 :=
  if c.getLsbD 15 then (c <<< 1) ^^^ 0x1021#16 else c <<< 1

/-- The register after one byte, most significant bit first. -/
def crcByte (c : BitVec 16) (b : Byte) : BitVec 16 :=
  Nat.repeat crcBit 8 (c ^^^ (b.setWidth 16 <<< 8))

/-- The check code of a run of bytes, from a register of all ones, with no final inversion. -/
def crc (bytes : List Byte) : BitVec 16 := bytes.foldl crcByte 0xFFFF#16

/-- The high byte of a 16-bit field, sent first. -/
def hi8 (w : BitVec 16) : Byte := w.extractLsb' 8 8

/-- The low byte of a 16-bit field. -/
def lo8 (w : BitVec 16) : Byte := w.extractLsb' 0 8

/-- The check code over arbitration word, header and body (R183). -/
def messageCrc (code : Byte) (h : Heard) : BitVec 16 :=
  crc ([h.word, code, hi8 h.len, lo8 h.len] ++ h.body)

/-! ## Bodies (11.3, R184) -/

/-- A pixel list read to the end of the body, none when a pixel is cut short. -/
def readPixels : List Byte → Option (List Pixel)
  | [] => some []
  | r :: g :: b :: a :: rest => (readPixels rest).map (⟨r, g, b, a⟩ :: ·)
  | _ :: _ => none

/-- A party set of eight bytes. -/
def readPartySet : List Byte → Option PartySet
  | [a, b, c, d, e, f, g, h] => some (a ++ b ++ c ++ d ++ e ++ f ++ g ++ h)
  | _ => none

/-- x, y, width and height of a READ_REQUEST, which end its body. -/
def readRect (mk : BitVec 16 → BitVec 16 → BitVec 16 → BitVec 16 → Message) :
    List Byte → Option Message
  | [a, b, c, d, e, f, g, h] => some (mk (a ++ b) (c ++ d) (e ++ f) (g ++ h))
  | _ => none

/-- The length of a report record is 75 + 12k + 5m for the counts it declares (11.4). -/
def reportLengthFits (record : List Byte) : Bool :=
  let k := (record.getD 28 0).toNat
  let m := (record.getD (32 + 12 * k) 0).toNat
  record.length == 75 + 12 * k + 5 * m

/-- An empty body. -/
def readEmpty (m : Message) : List Byte → Option Message
  | [] => some m
  | _ => none

/-- A body of one byte. -/
def readByte (mk : Byte → Message) : List Byte → Option Message
  | [x] => some (mk x)
  | _ => none

/-- A body of one 16-bit field. -/
def readWord (mk : BitVec 16 → Message) : List Byte → Option Message
  | [a, b] => some (mk (a ++ b))
  | _ => none

/-- A last opened frame after its presence byte, which is 0 or 1. -/
def readPresent (present : Byte) : List Byte → Option (Option FrameNo)
  | [] => if present = 0 then some none else none
  | [a, b] => if present = 1 then some (some (a ++ b)) else none
  | _ => none

def readBeacon : List Byte → Option Message
  | t :: a :: b :: m3 :: m2 :: m1 :: m0 :: p :: rest =>
    (readPresent p rest).map (.beacon t (a ++ b) (m3 ++ m2 ++ m1 ++ m0))
  | _ => none

def readReply : List Byte → Option Message
  | q :: t :: a :: b :: c2 :: c1 :: c0 :: x1 :: x0 :: y1 :: y0 :: n :: l :: rest =>
    match readPixels rest with
    | some ps =>
      if ps.length = n.toNat then
        some (.readReply ⟨q, t, a ++ b, c2 ++ c1 ++ c0, x1 ++ x0, y1 ++ y0, n, l != 0, ps⟩)
      else none
    | none => none
  | _ => none

def readReport : List Byte → Option Message
  | q :: record => if reportLengthFits record then some (.statusReport q record) else none
  | [] => none

/-- The init mode decides whether a colour stands before the source set. -/
def readOpen : List Byte → Option Message
  | a :: b :: mode :: rest =>
    if mode = 0 then
      match rest with
      | r :: g :: b' :: al :: rest' =>
        (readPartySet rest').map (.openFrame (a ++ b) mode (some ⟨r, g, b', al⟩))
      | _ => none
    else (readPartySet rest).map (.openFrame (a ++ b) mode none)
  | _ => none

/-- The fields that FILL and RUN share, and the rest of the body. -/
def readHead : List Byte → Option (WriteHead × List Byte)
  | a :: b :: x1 :: x0 :: y1 :: y0 :: w1 :: w0 :: h1 :: h0 :: om :: rest =>
    some (⟨a ++ b, x1 ++ x0, y1 ++ y0, w1 ++ w0, h1 ++ h0, om.extractLsb' 4 4, om.extractLsb' 0 4⟩,
      rest)
  | _ => none

def readFill (body : List Byte) : Option Message :=
  match readHead body with
  | some (h, [r, g, b, a]) => some (.fill h ⟨r, g, b, a⟩)
  | _ => none

/-- The pixel list is as long as the count says, and no longer than a body can hold. -/
def readRun (body : List Byte) : Option Message :=
  match readHead body with
  | some (h, n1 :: n0 :: rest) =>
    match readPixels rest with
    | some ps =>
      if ps.length = (n1 ++ n0).toNat ∧ (n1 ++ n0).toNat ≤ 16380 then
        some (.run h (n1 ++ n0) ps)
      else none
    | none => none
  | _ => none

/-- The selector byte decides whether a frame number stands before the rectangle. -/
def readRequest : List Byte → Option Message
  | t :: sel :: rest =>
    if sel = 0 then
      match rest with
      | a :: b :: rest' => readRect (.readRequest t (some (a ++ b))) rest'
      | _ => none
    else if sel = 1 then readRect (.readRequest t none) rest
    else none
  | _ => none

def readQuery : List Byte → Option Message
  | [x, c] => some (.statusQuery x (c != 0))
  | _ => none

/-- A body read field by field by its kind's layout; none when its length does not divide into the
fields, or a presence or selector byte is neither 0 nor 1 (R5, R184). -/
def readBody (k : Kind) : List Byte → Option Message :=
  match k with
  | .tick => readWord .tick
  | .suspect => readByte .suspect
  | .join => readByte .join
  | .leave => readEmpty .leave
  | .wallReset => readEmpty .wallReset
  | .orderLeave => readByte .orderLeave
  | .orderRejoin => readByte .orderRejoin
  | .drop => readByte .drop
  | .ready => readWord .ready
  | .beacon => readBeacon
  | .readReply => readReply
  | .statusReport => readReport
  | .openFrame => readOpen
  | .closeFrame => readWord .closeFrame
  | .fill => readFill
  | .run => readRun
  | .readRequest => readRequest
  | .readCancel => readByte .readCancel
  | .statusQuery => readQuery

/-- A message of a listed kind as it is heard: none when the station must assert the damage slot on
it, for a failed check code, an inconsistent length or a class or sender that does not fit (R4, R5). -/
def readMessage (k : Kind) (h : Heard) : Option Message :=
  if h.check = messageCrc k.code h ∧ h.body.length = h.len.toNat ∧ k.fits h.word = true then
    readBody k h.body
  else none

/-! ## Writing a message (11.3, R183) -/

def bytes16 (w : BitVec 16) : List Byte := [hi8 w, lo8 w]

def bytes24 (w : BitVec 24) : List Byte :=
  [w.extractLsb' 16 8, w.extractLsb' 8 8, w.extractLsb' 0 8]

def bytes32 (w : BitVec 32) : List Byte :=
  [w.extractLsb' 24 8, w.extractLsb' 16 8, w.extractLsb' 8 8, w.extractLsb' 0 8]

def bytes64 (w : BitVec 64) : List Byte :=
  [w.extractLsb' 56 8, w.extractLsb' 48 8, w.extractLsb' 40 8, w.extractLsb' 32 8,
   w.extractLsb' 24 8, w.extractLsb' 16 8, w.extractLsb' 8 8, w.extractLsb' 0 8]

def Pixel.bytes (p : Pixel) : List Byte := [p.r, p.g, p.b, p.a]

/-- A flag byte: a TS-40 sends 1 for set (11.3). -/
def flagByte (b : Bool) : Byte := if b then 1 else 0

def WriteHead.bytes (h : WriteHead) : List Byte :=
  bytes16 h.frame ++ bytes16 h.x ++ bytes16 h.y ++ bytes16 h.width ++ bytes16 h.height ++
    [h.op ++ h.mask]

/-- The kind of a message. -/
def Message.kind : Message → Kind
  | .tick _ => .tick
  | .suspect _ => .suspect
  | .join _ => .join
  | .leave => .leave
  | .wallReset => .wallReset
  | .orderLeave _ => .orderLeave
  | .orderRejoin _ => .orderRejoin
  | .drop _ => .drop
  | .ready _ => .ready
  | .beacon _ _ _ _ => .beacon
  | .readReply _ => .readReply
  | .statusReport _ _ => .statusReport
  | .openFrame _ _ _ _ => .openFrame
  | .closeFrame _ => .closeFrame
  | .fill _ _ => .fill
  | .run _ _ _ => .run
  | .readRequest _ _ _ _ _ _ => .readRequest
  | .readCancel _ => .readCancel
  | .statusQuery _ _ => .statusQuery

/-- The body of a message in order of transmission (11.3). -/
def Message.body : Message → List Byte
  | .tick r => bytes16 r
  | .suspect x => [x]
  | .join t => [t]
  | .leave => []
  | .wallReset => []
  | .orderLeave x => [x]
  | .orderRejoin x => [x]
  | .drop p => [p]
  | .ready n => bytes16 n
  | .beacon t r m none => t :: bytes16 r ++ bytes32 m ++ [0]
  | .beacon t r m (some n) => t :: bytes16 r ++ bytes32 m ++ [1] ++ bytes16 n
  | .readReply b =>
    [b.requester, b.tag] ++ bytes16 b.frame ++ bytes24 b.chunk ++ bytes16 b.x ++ bytes16 b.y ++
      [b.count, flagByte b.last] ++ b.pixels.flatMap Pixel.bytes
  | .statusReport q record => q :: record
  | .openFrame n mode colour s =>
    bytes16 n ++ [mode] ++ (match colour with | some p => p.bytes | none => []) ++ bytes64 s
  | .closeFrame n => bytes16 n
  | .fill h p => h.bytes ++ p.bytes
  | .run h n ps => h.bytes ++ bytes16 n ++ ps.flatMap Pixel.bytes
  | .readRequest t sel x y w h =>
    [t] ++ (match sel with | some n => 0 :: bytes16 n | none => [1]) ++
      bytes16 x ++ bytes16 y ++ bytes16 w ++ bytes16 h
  | .readCancel t => [t]
  | .statusQuery x c => [x, flagByte c]

/-- Everything a sender drives for a message but the kind code (R183): word, body length, body and
check code. -/
def Message.sentBy (m : Message) (party : Nat) : Heard :=
  let w := arbWord m.kind.cls party
  let n := BitVec.ofNat 16 m.body.length
  { word := w, len := n, body := m.body
    check := crc ([w, m.kind.code, hi8 n, lo8 n] ++ m.body) }

end Sys2Proof
end

