-- ==== Sys2Proof/Machine/State.lean ====
section
/-! DEFINITION. The state of one station, block by block (00_scope.md, Block overview), the queue of its
commands, the reasons to stop, and the state after reset. -/

namespace Sys2Proof.Machine

/-- Why the machine stops with a fault. No behaviour of the manual stops the station: damage,
refusals, voids, underflows and bus faults are effects on its state, so there is no reason. -/
inductive Fault : Type
  deriving DecidableEq, Repr

/-- Why a command is refused. -/
inductive Refusal where
  /-- The command's arm in exec has no meaning yet. Raised by exec's refused arms alone; safe. -/
  | notModelled (mnemonic : String)
  deriving DecidableEq, Repr

/-! ## Straps (R22, R186) -/

/-- The latched straps. -/
structure Straps where
  station : BitVec 5
  column : BitVec 3
  row : BitVec 3
  format : BitVec 2
  profile : BitVec 2
  stall : BitVec 2
  deriving DecidableEq, Repr

/-- A tile: its column and its row (R22). -/
structure Tile where
  column : BitVec 3
  row : BitVec 3
  deriving DecidableEq, Repr

/-! ## Tile buffers and frame records (chapter 3) -/

/-- The three tile buffers (R50). -/
inductive Buf where
  | b0 | b1 | b2
  deriving DecidableEq, Repr

inductive BufState where
  | free | bound | heldImage | releasing
  deriving DecidableEq, Repr

/-- A buffer descriptor (R50). -/
structure BufDesc where
  state : BufState
  frame : Option FrameNo
  inFlight : Bool
  deriving DecidableEq, Repr

structure Buffers where
  b0 : BufDesc
  b1 : BufDesc
  b2 : BufDesc
  deriving DecidableEq, Repr

/-- The states of a frame record (R53). -/
inductive FrameState where
  | init | filling | sealed | drained | ready | committed | shown | retiring
  deriving DecidableEq, Repr

/-- The init modes that an admitted OPEN can carry (R55). -/
inductive InitMode where
  | clear | seed | keep
  deriving DecidableEq, Repr

/-- A frame record (R53). -/
structure FrameRecord where
  frame : FrameNo
  buffer : Buf
  state : FrameState
  mode : InitMode
  colour : Option Pixel
  requiredSources : PartySet
  closedSources : PartySet
  requiredStations : StationSet
  readyStations : StationSet
  pending : Nat
  pins : Nat
  showRefresh : Option Refresh
  stallCount : Nat
  stalled : Bool
  deriving DecidableEq, Repr

/-- The frame table controller (R50, R53, R54, R58, R73). Records stand in the order their OPENs
stood, oldest first. -/
structure Ftc where
  buffers : Buffers
  records : List FrameRecord
  lastOpened : Option FrameNo
  f0 : Option FrameNo
  refresh : Refresh
  deriving DecidableEq, Repr

/-! ## Intake, initialisation and readback (chapters 5, 6 and 9) -/

/-- A rectangle in tile coordinates (R102). -/
structure Rect where
  left : Nat
  top : Nat
  width : Nat
  height : Nat
  deriving DecidableEq, Repr

/-- The raster ops (R92). -/
inductive RasterOp where
  | replace | and | or | xor
  deriving DecidableEq, Repr

/-- Which write made an apply record, with what it writes (R102). -/
inductive Paint where
  | fill (colour : Pixel)
  | run (pixels : List Pixel)
  deriving DecidableEq, Repr

/-- An apply record (R102); `row` and `col` are its progress. -/
structure ApplyRecord where
  frame : FrameNo
  paint : Paint
  op : RasterOp
  mask : BitVec 4
  rect : Rect
  row : Nat
  col : Nat
  deriving DecidableEq, Repr

/-- The work of an initialisation job (R114). -/
inductive InitWork where
  | fill (colour : Pixel)
  | copy
  deriving DecidableEq, Repr

inductive InitPhase where
  | queued | waiting | running
  deriving DecidableEq, Repr

/-- An initialisation job (R114). -/
structure InitJob where
  frame : FrameNo
  work : InitWork
  target : Buf
  source : Option Buf
  phase : InitPhase
  row : Nat
  col : Nat
  deriving DecidableEq, Repr

/-- A read record (R159); `row` and `col` are the next position, past the end when `row` is the
height. -/
structure ReadRecord where
  requester : Nat
  tag : Byte
  frame : FrameNo
  buffer : Buf
  rect : Rect
  row : Nat
  col : Nat
  nextChunk : Nat
  unconfirmed : Nat
  deriving DecidableEq, Repr

/-! ## Memory arbiter (chapter 7) -/

/-- A run of consecutive pixels of one line of a buffer. -/
structure Span where
  buffer : Buf
  line : Nat
  col : Nat
  count : Nat
  deriving DecidableEq, Repr

/-- A burst as formed at its grant (R137). -/
inductive BurstWork where
  /-- the segment of a line, read from the refresh front -/
  | scan (buffer : Buf) (line segment : Nat)
  | mref
  /-- `slot`: the place in the apply queue of the record that the burst advances -/
  | apply (span : Span) (op : RasterOp) (mask : BitVec 4) (values : List Pixel) (slot : Nat)
  | initFill (span : Span) (colour : Pixel)
  | initCopy (source : Buf) (span : Span)
  /-- `requester` and `tag` name the read record -/
  | read (span : Span) (requester : Nat) (tag : Byte)
  deriving DecidableEq, Repr

/-- The burst in flight; `dropped`: its work was dropped since the grant (R139). -/
structure Burst where
  work : BurstWork
  dropped : Bool
  deriving DecidableEq, Repr

/-- The memory arbiter (R126); the timer is in 0.1 µs to its next expiry. -/
structure Mar where
  history : List Requester
  debt : Nat
  burst : Option Burst
  timer : Nat
  deriving DecidableEq, Repr

/-! ## Scan engine and panel port (R143) -/

inductive RasterPhase where
  | idle | blanking | active | ended
  deriving DecidableEq, Repr

/-- A line and a segment of the raster (R144). -/
structure SegPos where
  line : Nat
  segment : Nat
  deriving DecidableEq, Repr

/-- A segment in the FIFO (R143). -/
structure Segment where
  pos : SegPos
  pixels : List Pixel
  deriving DecidableEq, Repr

/-- The three channels the panel shows (R145). -/
structure Rgb where
  r : Byte
  g : Byte
  b : Byte
  deriving DecidableEq, Repr

/-- What the panel port puts out (R143, R144, R145). -/
inductive PanelOut where
  /-- black, with no refresh in progress -/
  | black
  | blanking
  /-- the lines of the refresh: the segment taken last -/
  | lines
  deriving DecidableEq, Repr

/-- A segment as the panel took it, with the 64 pixels put out for it (R145, R153, R154). -/
structure TakenSegment where
  pos : SegPos
  pixels : List Rgb
  deriving DecidableEq, Repr

/-- The scan engine (R143); watch and timer are in 0.1 µs, a stopped timer is none, a fetch position
past the end is none. -/
structure Scn where
  freeRun : Bool
  syncWatch : Nat
  freeRunTimer : Option Nat
  phase : RasterPhase
  output : SegPos
  front : Option Buf
  fetch : Option SegPos
  fifo : List Segment
  panel : PanelOut
  /-- the segment the panel took last, of this refresh or an earlier one (log 32) -/
  taken : Option TakenSegment
  deriving DecidableEq, Repr

/-! ## Status unit (R175) -/

/-- The 21 counters, in the order of R185. -/
inductive Counter where
  | frameState | sourceState | queueFull | pixelsFull | noBuffer | frameAhead | badField
  | readQueueFull | joinConflict | suspectDenied | underflow | lateShow | countSlip | syncLost
  | refreshOverrun | damageMarked | ownVoided | stall | seedMissing | withdrawals | tickStarved
  deriving DecidableEq, Repr

/-- The counts, each 0 to 65535. -/
structure Counters where
  frameState : Nat := 0
  sourceState : Nat := 0
  queueFull : Nat := 0
  pixelsFull : Nat := 0
  noBuffer : Nat := 0
  frameAhead : Nat := 0
  badField : Nat := 0
  readQueueFull : Nat := 0
  joinConflict : Nat := 0
  suspectDenied : Nat := 0
  underflow : Nat := 0
  lateShow : Nat := 0
  countSlip : Nat := 0
  syncLost : Nat := 0
  refreshOverrun : Nat := 0
  damageMarked : Nat := 0
  ownVoided : Nat := 0
  stall : Nat := 0
  seedMissing : Nat := 0
  withdrawals : Nat := 0
  tickStarved : Nat := 0
  deriving DecidableEq, Repr

structure Stu where
  counters : Counters
  pendingReport : Bool
  deriving DecidableEq, Repr

/-! ## Tile bus interface (chapter 1) -/

/-- A message in the transmit queue, with what is fixed when it is queued (R12, R14). -/
inductive TxMsg where
  | tick (refresh : Refresh)
  | suspect (station : Nat)
  | join (tile : Byte)
  | leave
  | ready (frame : FrameNo)
  | beacon
  | readReply (body : ReplyBody)
  | statusReport (requester : Nat) (clear : Bool)
  deriving DecidableEq, Repr

/-- An entry waits, is the current offer, or is in transmission (R11). -/
inductive TxStatus where
  | waiting | offer | sending
  deriving DecidableEq, Repr

structure TxEntry where
  msg : TxMsg
  status : TxStatus
  deriving DecidableEq, Repr

/-- What a member sets aside for a message it passes (R7). -/
inductive SetAside where
  | nothing
  | apply (record : ApplyRecord)
  | read (record : ReadRecord)
  deriving DecidableEq, Repr

/-- The message whose check code has arrived and whose verdict is still to come. -/
structure Receiving where
  /-- the header's kind code -/
  code : Byte
  /-- the sender of record -/
  sender : Nat
  /-- the fields, none when this station found the message damaged -/
  message : Option Message
  /-- this station transmits it -/
  own : Bool
  /-- this station asserts its refusal slot -/
  refused : Bool
  aside : SetAside
  deriving DecidableEq, Repr

structure Tbi where
  queue : List TxEntry
  heldTick : Option Refresh
  voidStreak : Nat
  contending : Bool
  sending : Option Message
  receiving : Option Receiving
  /-- clear while a message that was on the bus at the reset's release has not ended (R20) -/
  inStep : Bool
  deriving DecidableEq, Repr

/-! ## Membership unit (chapter 2) -/

inductive StationState where
  | listening | joining | member | idleOut | rejected
  deriving DecidableEq, Repr

/-- A roster entry (R24): `member` is MEMBER against ABSENT. -/
structure RosterEntry where
  member : Bool
  tile : Option Tile
  watch : Nat
  deriving DecidableEq, Repr

/-- Which watch raised the queued SUSPECT (R41). -/
inductive SuspectOrigin where
  | tickWatch
  | beaconWatch (station : Nat)
  deriving DecidableEq, Repr

structure Mbr where
  state : StationState
  roster : List RosterEntry
  tickWatch : Nat
  retryCount : Nat
  /-- pulses left, 0 when no join wait runs -/
  joinWait : Nat
  dutyHolder : Option Nat
  /-- the duty holder was removed from the roster since the last pulse (R43, R45, R81) -/
  holderRemoved : Bool
  suspectOrigin : Option SuspectOrigin
  deriving DecidableEq, Repr

/-! ## The station and the machine -/

/-- The tile memory: bytes by address, in the canonical form of Memory.wf. -/
abbrev Memory := List Host.Cell

/-- One station: everything but the queue of commands. -/
structure Station where
  /-- RESET# is asserted -/
  resetAsserted : Bool
  straps : Straps
  tbi : Tbi
  mbr : Mbr
  ftc : Ftc
  /-- the apply queue, oldest first (R102) -/
  inq : List ApplyRecord
  /-- the init list, the active job first (R114) -/
  fie : List InitJob
  /-- the read queue, oldest first (R159) -/
  rbe : List ReadRecord
  mar : Mar
  scn : Scn
  stu : Stu
  mem : Memory
  /-- the model's own: selects the next free value -/
  free : Nat
  deriving DecidableEq, Repr

/-- The machine: a station and the commands that wait, first in first out. -/
structure State extends Station where
  pending : List Instr
  deriving DecidableEq, Repr

/-! ## Reset -/

/-- An ABSENT entry: no tile, a beacon watch of 0 (R24). -/
def RosterEntry.absent : RosterEntry := { member := false, tile := none, watch := 0 }

/-- Every entry ABSENT (R23). -/
def Mbr.emptyRoster : List RosterEntry := List.replicate 32 RosterEntry.absent

/-- A FREE buffer with its mark clear and no frame number (R52). -/
def BufDesc.reset : BufDesc := { state := .free, frame := none, inFlight := false }

/-- The TBI at the release (R20); `busBusy`: a message is on the bus then. -/
def Tbi.reset (busBusy : Bool) : Tbi :=
  { queue := [], heldTick := none, voidStreak := 0, contending := false, sending := none
    receiving := none, inStep := !busBusy }

/-- The membership unit at the release (R23). -/
def Mbr.reset : Mbr :=
  { state := .listening, roster := Mbr.emptyRoster, tickWatch := 0, retryCount := 0, joinWait := 0
    dutyHolder := none, holderRemoved := false, suspectOrigin := none }

/-- The frame table at the release (R52). -/
def Ftc.reset : Ftc :=
  { buffers := { b0 := BufDesc.reset, b1 := BufDesc.reset, b2 := BufDesc.reset }
    records := [], lastOpened := none, f0 := none, refresh := 0 }

/-- The arbiter at the release (R126). -/
def Mar.reset : Mar :=
  { history := [.scan, .mref, .apply, .init, .read], debt := 0, burst := none
    timer := Config.memoryRefreshPeriod }

/-- The scan engine at the release (R143). -/
def Scn.reset : Scn :=
  { freeRun := false, syncWatch := 0, freeRunTimer := none, phase := .idle, output := ⟨0, 0⟩
    front := none, fetch := some ⟨0, 0⟩, fifo := [], panel := .black, taken := none }

/-- The status unit at the release (R175). -/
def Stu.reset : Stu := { counters := {}, pendingReport := false }

/-- Every block in its reset state under given straps (R20, R23, R52, R112, R114, R126, R143, R159,
R175). The pin reset writes nothing into the tile memory (R52). -/
def Station.released (straps : Straps) (busBusy : Bool) (mem : Memory) (free : Nat) : Station :=
  { resetAsserted := false, straps, tbi := Tbi.reset busBusy, mbr := Mbr.reset, ftc := Ftc.reset
    inq := [], fie := [], rbe := [], mar := Mar.reset, scn := Scn.reset, stu := Stu.reset, mem, free }

/-- The straps of State.reset: every pin low (DESIGN CHOICE, log 1). -/
def Straps.low : Straps :=
  { station := 0, column := 0, row := 0, format := 0, profile := 0, stall := 0 }

/-- The machine right after the release of RESET#, with no command waiting. -/
def State.reset : State :=
  { toStation := Station.released Straps.low false [] 0, pending := [] }

end Sys2Proof.Machine
end

