-- ==== Sys2Proof/Machine/Ops.lean ====
section
/-! DEFINITION. The shared operations over one block each: updates of a block, sets, the tile memory, the
counters, the transmit queue, the roster, the buffers and the frame records. -/

namespace Sys2Proof.Machine

/-! ## Updates of one block -/

def Station.onTbi (f : Tbi → Tbi) (s : Station) : Station := { s with tbi := f s.tbi }
def Station.onMbr (f : Mbr → Mbr) (s : Station) : Station := { s with mbr := f s.mbr }
def Station.onFtc (f : Ftc → Ftc) (s : Station) : Station := { s with ftc := f s.ftc }
def Station.onInq (f : List ApplyRecord → List ApplyRecord) (s : Station) : Station :=
  { s with inq := f s.inq }
def Station.onFie (f : List InitJob → List InitJob) (s : Station) : Station :=
  { s with fie := f s.fie }
def Station.onRbe (f : List ReadRecord → List ReadRecord) (s : Station) : Station :=
  { s with rbe := f s.rbe }
def Station.onMar (f : Mar → Mar) (s : Station) : Station := { s with mar := f s.mar }
def Station.onScn (f : Scn → Scn) (s : Station) : Station := { s with scn := f s.scn }
def Station.onStu (f : Stu → Stu) (s : Station) : Station := { s with stu := f s.stu }
def Station.onMem (f : Memory → Memory) (s : Station) : Station := { s with mem := f s.mem }

/-! ## Sets of stations and of parties -/

def stationBit (x : Nat) : StationSet := 1#32 <<< x

def partyBit (p : Nat) : PartySet := 1#64 <<< p

/-- Every member of the first set is one of the second. -/
def setWithin {w : Nat} (a b : BitVec w) : Bool := (a &&& ~~~b) == 0

/-- The latched station number: the party number and the roster index (R22). -/
def Station.number (s : Station) : Nat := s.straps.station.toNat

/-- The station's tile (R22). -/
def Station.tile (s : Station) : Tile := ⟨s.straps.column, s.straps.row⟩

/-- The tile byte of JOIN, BEACON and report (11.3, R186). -/
def Station.tileByte (s : Station) : Byte := s.straps.column ++ s.straps.row ++ s.straps.format

/-- The tile position in a tile byte (11.3). -/
def tileOfByte (t : Byte) : Tile := ⟨t.extractLsb' 5 3, t.extractLsb' 2 3⟩

/-- The tile format in a tile byte (11.3). -/
def formatOfByte (t : Byte) : BitVec 2 := t.extractLsb' 0 2

/-! ## The tile memory -/

/-- What a byte that nothing has written reads as (DESIGN CHOICE, log 3). -/
def Memory.unlisted : Byte := 0

def Memory.read : Memory → Nat → Byte
  | [], _ => Memory.unlisted
  | (a, v) :: m, k => if a = k then v else Memory.read m k

/-- A write keeps the canonical form: it removes the cell when the byte is the unlisted one. -/
def Memory.write : Memory → Nat → Byte → Memory
  | [], k, v => if v = Memory.unlisted then [] else [(k, v)]
  | (a, w) :: m, k, v =>
    if k < a then (if v = Memory.unlisted then (a, w) :: m else (k, v) :: (a, w) :: m)
    else if k = a then (if v = Memory.unlisted then m else (k, v) :: m)
    else (a, w) :: Memory.write m k v

/-- The canonical form: addresses strictly rising, no cell equal to what an unlisted byte reads as. -/
def Memory.wf : Memory → Bool
  | [] => true
  | (a, v) :: m => v != Memory.unlisted && m.all (fun c => decide (a < c.1)) && Memory.wf m

def Buf.index : Buf → Nat
  | .b0 => 0 | .b1 => 1 | .b2 => 2

/-- The address of the first channel of a pixel: buffers, lines and columns at the largest format's
stride (DESIGN CHOICE, log 2). -/
def pixelAddr (b : Buf) (line col : Nat) : Nat := ((b.index * 2160 + line) * 3840 + col) * 4

def Memory.readPixel (m : Memory) (b : Buf) (line col : Nat) : Pixel :=
  let k := pixelAddr b line col
  ⟨Memory.read m k, Memory.read m (k + 1), Memory.read m (k + 2), Memory.read m (k + 3)⟩

def Memory.writePixel (m : Memory) (b : Buf) (line col : Nat) (p : Pixel) : Memory :=
  let k := pixelAddr b line col
  Memory.write (Memory.write (Memory.write (Memory.write m k p.r) (k + 1) p.g) (k + 2) p.b) (k + 3) p.a

/-- The pixels of a run of columns of one line. -/
def Memory.readRun (m : Memory) (b : Buf) (line col : Nat) : Nat → List Pixel
  | 0 => []
  | n + 1 => Memory.readPixel m b line col :: Memory.readRun m b line (col + 1) n

/-- Pixels written to consecutive columns of one line. -/
def Memory.writeRun (b : Buf) (line : Nat) : Nat → List Pixel → Memory → Memory
  | _, [], m => m
  | col, p :: ps, m => Memory.writeRun b line (col + 1) ps (Memory.writePixel m b line col p)

/-- One channel under a raster op (R92). -/
def RasterOp.apply : RasterOp → Byte → Byte → Byte
  | .replace, _, v => v
  | .and, o, v => o &&& v
  | .or, o, v => o ||| v
  | .xor, o, v => o ^^^ v

/-- A stored and a written pixel combined: named channels under the op, the others kept (R92).
Mask bit 3 names R, bit 2 G, bit 1 B, bit 0 A (11.3). -/
def combinePixel (op : RasterOp) (mask : BitVec 4) (old new : Pixel) : Pixel :=
  { r := if mask.getLsbD 3 then op.apply old.r new.r else old.r
    g := if mask.getLsbD 2 then op.apply old.g new.g else old.g
    b := if mask.getLsbD 1 then op.apply old.b new.b else old.b
    a := if mask.getLsbD 0 then op.apply old.a new.a else old.a }

/-- The written values of a burst combined onto consecutive columns of one line (R107). -/
def Memory.combineRun (op : RasterOp) (mask : BitVec 4) (b : Buf) (line : Nat) :
    Nat → List Pixel → Memory → Memory
  | _, [], m => m
  | col, v :: vs, m =>
    Memory.combineRun op mask b line (col + 1) vs
      (Memory.writePixel m b line col (combinePixel op mask (Memory.readPixel m b line col) v))

/-- Bytes of an abandoned burst: each of `n` bytes from address `k` on holds its value in `new` or
stays as it is, as the free value says (R112, R114; log 4). -/
def Memory.mixRun (new : Memory) (choice : Nat) : Nat → Nat → Memory → Memory
  | _, 0, m => m
  | k, n + 1, m =>
    Memory.mixRun new choice (k + 1) n
      (if Config.abandonedByteIsNew choice k then Memory.write m k (Memory.read new k) else m)

/-! ## Counters (R175) -/

def Counters.get (k : Counters) : Counter → Nat
  | .frameState => k.frameState | .sourceState => k.sourceState | .queueFull => k.queueFull
  | .pixelsFull => k.pixelsFull | .noBuffer => k.noBuffer | .frameAhead => k.frameAhead
  | .badField => k.badField | .readQueueFull => k.readQueueFull | .joinConflict => k.joinConflict
  | .suspectDenied => k.suspectDenied | .underflow => k.underflow | .lateShow => k.lateShow
  | .countSlip => k.countSlip | .syncLost => k.syncLost | .refreshOverrun => k.refreshOverrun
  | .damageMarked => k.damageMarked | .ownVoided => k.ownVoided | .stall => k.stall
  | .seedMissing => k.seedMissing | .withdrawals => k.withdrawals | .tickStarved => k.tickStarved

def Counters.set (k : Counters) (c : Counter) (n : Nat) : Counters :=
  match c with
  | .frameState => { k with frameState := n }
  | .sourceState => { k with sourceState := n }
  | .queueFull => { k with queueFull := n }
  | .pixelsFull => { k with pixelsFull := n }
  | .noBuffer => { k with noBuffer := n }
  | .frameAhead => { k with frameAhead := n }
  | .badField => { k with badField := n }
  | .readQueueFull => { k with readQueueFull := n }
  | .joinConflict => { k with joinConflict := n }
  | .suspectDenied => { k with suspectDenied := n }
  | .underflow => { k with underflow := n }
  | .lateShow => { k with lateShow := n }
  | .countSlip => { k with countSlip := n }
  | .syncLost => { k with syncLost := n }
  | .refreshOverrun => { k with refreshOverrun := n }
  | .damageMarked => { k with damageMarked := n }
  | .ownVoided => { k with ownVoided := n }
  | .stall => { k with stall := n }
  | .seedMissing => { k with seedMissing := n }
  | .withdrawals => { k with withdrawals := n }
  | .tickStarved => { k with tickStarved := n }

/-- The order in which the report lists the counters (R185). -/
def Counter.all : List Counter :=
  [.frameState, .sourceState, .queueFull, .pixelsFull, .noBuffer, .frameAhead, .badField,
   .readQueueFull, .joinConflict, .suspectDenied, .underflow, .lateShow, .countSlip, .syncLost,
   .refreshOverrun, .damageMarked, .ownVoided, .stall, .seedMissing, .withdrawals, .tickStarved]

/-- A count rises by 1 and stays at 65535 (R175). -/
def saturate (n : Nat) : Nat := if n < 65535 then n + 1 else n

/-- The status unit counts an event (R175). -/
def Station.count (c : Counter) (s : Station) : Station :=
  s.onStu fun u => { u with counters := u.counters.set c (saturate (u.counters.get c)) }

/-! ## The transmit queue (1.6) -/

def TxMsg.kind : TxMsg → Kind
  | .tick _ => .tick
  | .suspect _ => .suspect
  | .join _ => .join
  | .leave => .leave
  | .ready _ => .ready
  | .beacon => .beacon
  | .readReply _ => .readReply
  | .statusReport _ _ => .statusReport

def TxEntry.isKind (k : Kind) (e : TxEntry) : Bool := e.msg.kind == k

/-- A message is queued as the youngest entry. -/
def Tbi.push (m : TxMsg) (t : Tbi) : Tbi := { t with queue := t.queue ++ [⟨m, .waiting⟩] }

/-- The queue holds an entry of a kind, one in transmission included. -/
def Tbi.holds (k : Kind) (t : Tbi) : Bool := t.queue.any (TxEntry.isKind k)

/-- A BEACON, LEAVE, JOIN or SUSPECT is queued unless one is queued already (R13, R28, R41). -/
def Tbi.pushOnce (m : TxMsg) (t : Tbi) : Tbi := if t.holds m.kind then t else t.push m

/-- A TICK from MBR: queued, replacing a queued one in its place, or held (R13). -/
def Tbi.pushTick (r : Refresh) (t : Tbi) : Tbi :=
  if t.queue.any (fun e => e.isKind .tick && e.status == .sending) then { t with heldTick := some r }
  else if t.holds .tick then
    { t with queue := t.queue.map fun e => if e.isKind .tick then { e with msg := .tick r } else e }
  else t.push (.tick r)

/-- Entries not in transmission that a producer has removed; a removed current offer leaves none
(R15). -/
def Tbi.removeWaiting (p : TxMsg → Bool) (t : Tbi) : Tbi :=
  { t with queue := t.queue.filter fun e => e.status == .sending || !p e.msg }

/-- The entry in transmission (1.6). -/
def Tbi.inTransmission (t : Tbi) : Option TxEntry := t.queue.find? fun e => e.status == .sending

def TxMsg.isSuspectOf (x : Nat) : TxMsg → Bool
  | .suspect y => x == y
  | _ => false

def TxMsg.isJoin : TxMsg → Bool
  | .join _ => true
  | _ => false

def TxMsg.isReadyOf (n : FrameNo) : TxMsg → Bool
  | .ready k => k == n
  | _ => false

def TxMsg.isReplyOf (requester : Nat) (tag : Byte) : TxMsg → Bool
  | .readReply b => b.requester.toNat == requester && b.tag == tag
  | _ => false

/-- The READ_REPLY entries in the transmit queue, one in transmission included (R130). -/
def Tbi.replies (t : Tbi) : Nat := t.queue.countP (TxEntry.isKind .readReply)

/-! ## The roster (R24) -/

def Mbr.entry (m : Mbr) (x : Nat) : RosterEntry := m.roster.getD x RosterEntry.absent

def Mbr.isMember (m : Mbr) (x : Nat) : Bool := (m.entry x).member

def Mbr.setEntry (m : Mbr) (x : Nat) (e : RosterEntry) : Mbr := { m with roster := m.roster.set x e }

/-- To add a station: MEMBER, the tile the message carries, else the known one, a watch of 0. -/
def Mbr.add (x : Nat) (tile : Option Tile) (m : Mbr) : Mbr :=
  m.setEntry x { member := true, tile := tile.or (m.entry x).tile, watch := 0 }

/-- To remove a station: ABSENT, no tile, a watch of 0. -/
def Mbr.remove (x : Nat) (m : Mbr) : Mbr := m.setEntry x RosterEntry.absent

/-- A MEMBER removes a station; once its duty holder is removed it accepts no TICK before the next pulse
(R24, R43). -/
def Mbr.lose (x : Nat) (m : Mbr) : Mbr :=
  { m.remove x with holderRemoved := m.holderRemoved || m.dutyHolder == some x }

/-- The duty holder whose TICKs a MEMBER accepts, none from the holder's removal to the next pulse (R36,
R43, R45, R81). -/
def Mbr.tickSender (m : Mbr) : Option Nat := if m.holderRemoved then none else m.dutyHolder

/-- A beacon watch of 0 for one station. -/
def Mbr.clearWatch (x : Nat) (m : Mbr) : Mbr := m.setEntry x { m.entry x with watch := 0 }

/-- The members of a roster from index `i` on, as a set. -/
def rosterSet : Nat → List RosterEntry → StationSet
  | _, [] => 0
  | i, e :: es => (if e.member then stationBit i else 0) ||| rosterSet (i + 1) es

/-- The member set (R24). -/
def Mbr.memberSet (m : Mbr) : StationSet := rosterSet 0 m.roster

/-- The lowest-numbered MEMBER entry (R34). -/
def Mbr.lowestMember (m : Mbr) : Option Nat := m.roster.findIdx? (·.member)

/-- A roster entry by entry, each with its index from `i` on. -/
def mapRoster (f : Nat → RosterEntry → RosterEntry) : Nat → List RosterEntry → List RosterEntry
  | _, [] => []
  | i, e :: es => f i e :: mapRoster f (i + 1) es

/-! ## Buffers (R50, R51) -/

def Buffers.get (k : Buffers) : Buf → BufDesc
  | .b0 => k.b0 | .b1 => k.b1 | .b2 => k.b2

def Buffers.set (k : Buffers) (b : Buf) (d : BufDesc) : Buffers :=
  match b with
  | .b0 => { k with b0 := d }
  | .b1 => { k with b1 := d }
  | .b2 => { k with b2 := d }

def Buf.all : List Buf := [.b0, .b1, .b2]

/-- A descriptor whose binding or held image ends: FREE, or RELEASING while a burst targets it (R51). -/
def BufDesc.release (d : BufDesc) : BufDesc :=
  { d with state := if d.inFlight then .releasing else .free, frame := none }

/-- The mark of a targeted buffer set at a grant (R51). -/
def BufDesc.mark (d : BufDesc) : BufDesc := { d with inFlight := true }

/-- The mark cleared at a completion; a RELEASING buffer becomes FREE (R51). -/
def BufDesc.unmark (d : BufDesc) : BufDesc :=
  { d with inFlight := false, state := if d.state = .releasing then .free else d.state }

def Ftc.onBuffer (b : Buf) (f : BufDesc → BufDesc) (t : Ftc) : Ftc :=
  { t with buffers := t.buffers.set b (f (t.buffers.get b)) }

/-- Release of a buffer (R51). -/
def Ftc.release (b : Buf) (t : Ftc) : Ftc := t.onBuffer b BufDesc.release

/-- Marks set at the grant of a burst that targets these buffers (R51). -/
def Ftc.markAll (bs : List Buf) (t : Ftc) : Ftc := bs.foldl (fun t b => t.onBuffer b BufDesc.mark) t

/-- Marks cleared at its completion (R51). -/
def Ftc.unmarkAll (bs : List Buf) (t : Ftc) : Ftc :=
  bs.foldl (fun t b => t.onBuffer b BufDesc.unmark) t

/-- The lowest-numbered FREE buffer (R56). -/
def Ftc.freeBuffer (t : Ftc) : Option Buf :=
  Buf.all.find? fun b => (t.buffers.get b).state == .free

/-- The held image's buffer (R70). -/
def Ftc.heldImage (t : Ftc) : Option Buf :=
  Buf.all.find? fun b => (t.buffers.get b).state == .heldImage

/-! ## Frame records (R53) -/

/-- INIT or FILLING: the states that take writes and closes (3.2). -/
def FrameState.isOpen : FrameState → Bool
  | .init | .filling => true
  | _ => false

/-- INIT to COMMITTED: a window record (3.2). -/
def FrameState.isWindow : FrameState → Bool
  | .shown | .retiring => false
  | _ => true

/-- INIT to READY: uncommitted (R87). -/
def FrameState.isUncommitted : FrameState → Bool
  | .init | .filling | .sealed | .drained | .ready => true
  | _ => false

/-- COMMITTED, SHOWN or RETIRING (R76, R80). -/
def FrameState.hasCommitted : FrameState → Bool
  | .committed | .shown | .retiring => true
  | _ => false

/-- DRAINED or a later state (R72). -/
def FrameState.hasDrained : FrameState → Bool
  | .init | .filling | .sealed => false
  | _ => true

/-- DRAINED, READY, COMMITTED or SHOWN: may be read (R66, R162). -/
def FrameState.isReadable : FrameState → Bool
  | .drained | .ready | .committed | .shown => true
  | _ => false

/-- FILLING or SEALED: its apply records are eligible (R104). -/
def FrameState.isApplied : FrameState → Bool
  | .filling | .sealed => true
  | _ => false

/-- The record of a frame, if held (R72). -/
def Ftc.find (t : Ftc) (n : FrameNo) : Option FrameRecord := t.records.find? fun r => r.frame == n

def Ftc.onRecord (n : FrameNo) (f : FrameRecord → FrameRecord) (t : Ftc) : Ftc :=
  { t with records := t.records.map fun r => if r.frame == n then f r else r }

def Ftc.setState (n : FrameNo) (st : FrameState) (t : Ftc) : Ftc :=
  t.onRecord n fun r => { r with state := st }

/-- The oldest record in a group of states. -/
def Ftc.oldest (t : Ftc) (p : FrameState → Bool) : Option FrameRecord :=
  t.records.find? fun r => p r.state

/-- A record is sealed when its closed sources equal its required sources (R60). -/
def FrameRecord.isSealed (r : FrameRecord) : Bool := r.closedSources == r.requiredSources

/-- A record's barrier is complete when its ready stations contain its required ones (R79). -/
def FrameRecord.barrierComplete (r : FrameRecord) : Bool :=
  setWithin r.requiredStations r.readyStations

/-- A record dropped and its buffer released (R68, R69). -/
def Ftc.dropRecord (n : FrameNo) (t : Ftc) : Ftc :=
  match t.find n with
  | none => t
  | some r => { t.release r.buffer with records := t.records.filter fun r => r.frame != n }

/-- Frame N − 1 is not held, or is in COMMITTED, SHOWN or RETIRING (R76, R80). -/
def Ftc.predecessorCommitted (t : Ftc) (n : FrameNo) : Bool :=
  match t.find (n - 1) with
  | none => true
  | some p => p.state.hasCommitted

/-- The front buffer: the SHOWN record's, else the held image, else none (R50). -/
def Ftc.frontBuffer (t : Ftc) : Option Buf :=
  match t.records.find? (fun r => r.state == .shown) with
  | some r => some r.buffer
  | none => t.heldImage

/-- A pin is taken on a frame (R67). -/
def Ftc.pinUp (n : FrameNo) (t : Ftc) : Ftc := t.onRecord n fun r => { r with pins := r.pins + 1 }

/-- A pin of a frame is dropped; a RETIRING record whose pins reach 0 is dropped (R67, R69). -/
def Ftc.pinDown (n : FrameNo) (t : Ftc) : Ftc :=
  let t' := t.onRecord n fun r => { r with pins := r.pins - 1 }
  match t'.find n with
  | some r => if r.state = .retiring ∧ r.pins = 0 then t'.dropRecord n else t'
  | none => t'

/-- A station removed from the roster leaves the required and ready sets of every record (R57). -/
def Ftc.prune (x : Nat) (t : Ftc) : Ftc :=
  { t with records := t.records.map fun r =>
      { r with requiredStations := r.requiredStations &&& ~~~stationBit x
               readyStations := r.readyStations &&& ~~~stationBit x } }

end Sys2Proof.Machine
end

