-- ==== Sys2Proof/Machine/Operands.lean ====
section
/-! DEFINITION. What the fields of a message stand for at this station: the tile's geometry, the validity
of a rectangle, its clipping to the tile, and the pixels of a RUN that fall on it (R22, R91, R93, R97). -/

namespace Sys2Proof.Machine

/-! ## Geometry (00_scope.md, Tile formats) -/

def tileWidth (f : BitVec 2) : Nat :=
  if f = 0 then 1280 else if f = 1 then 1920 else if f = 2 then 2560 else 3840

def tileHeight (f : BitVec 2) : Nat :=
  if f = 0 then 720 else if f = 1 then 1080 else if f = 2 then 1440 else 2160

def Station.width (s : Station) : Nat := tileWidth s.straps.format

def Station.height (s : Station) : Nat := tileHeight s.straps.format

/-- The tile origin (R22). -/
def Station.originX (s : Station) : Nat := s.straps.column.toNat * s.width

def Station.originY (s : Station) : Nat := s.straps.row.toNat * s.height

/-- The stall limit in pulses (R22). -/
def stallLimit (c : BitVec 2) : Nat :=
  if c = 0 then 60 else if c = 1 then 120 else if c = 2 then 240 else 480

/-- The next segment in raster order, none past the last segment of the last line (R144). -/
def Station.nextSegment (s : Station) (p : SegPos) : Option SegPos :=
  if p.segment + 1 < s.width / 64 then some ⟨p.line, p.segment + 1⟩
  else if p.line + 1 < s.height then some ⟨p.line + 1, 0⟩
  else none

/-! ## Rectangles -/

/-- Width and height are not 0 and the rectangle stays within the wall's coordinates (R93, R160). -/
def rectValid (x y width height : BitVec 16) : Bool :=
  decide (width ≠ 0 ∧ height ≠ 0 ∧ x.toNat + width.toNat ≤ 65536 ∧ y.toNat + height.toNat ≤ 65536)

/-- The rectangle clipped to the tile, in tile coordinates; none when it misses the tile (R97). -/
def Station.clip (s : Station) (x y width height : BitVec 16) : Option Rect :=
  let left := max x.toNat s.originX
  let right := min (x.toNat + width.toNat) (s.originX + s.width)
  let top := max y.toNat s.originY
  let bottom := min (y.toNat + height.toNat) (s.originY + s.height)
  if left < right ∧ top < bottom then
    some ⟨left - s.originX, top - s.originY, right - left, bottom - top⟩
  else none

/-- The rows of a RUN's pixel list that fall in a clipped rectangle: `n` rows of `w` pixels, the first
at list index `at`, one row of the whole rectangle apart (R97). -/
def clipRows (stride w : Nat) : Nat → Nat → List Pixel → List Pixel
  | _, 0, _ => []
  | i, n + 1, ps => (ps.drop i).take w ++ clipRows stride w (i + stride) n ps

/-- The clipped pixels of a RUN in row-major order of the clipped rectangle (R97). -/
def Station.clipPixels (s : Station) (h : WriteHead) (c : Rect) (ps : List Pixel) : List Pixel :=
  let first := (s.originY + c.top - h.y.toNat) * h.width.toNat + (s.originX + c.left - h.x.toNat)
  clipRows h.width.toNat c.width first c.height ps

/-- The raster op of a code, none above 3 (11.3, R93). -/
def RasterOp.ofCode (c : BitVec 4) : Option RasterOp :=
  if c = 0 then some .replace else if c = 1 then some .and else if c = 2 then some .or
  else if c = 3 then some .xor else none

/-- The init mode of a code, none above 2 (11.3, R184). -/
def InitMode.ofCode (c : Byte) : Option InitMode :=
  if c = 0 then some .clear else if c = 1 then some .seed else if c = 2 then some .keep else none

/-- The stored pixels of an apply record (R98, R102). A FILL stores none, also where R7 and its example set
pixels aside for one (DESIGN CHOICE, log 35). -/
def Paint.stored : Paint → Nat
  | .fill _ => 0
  | .run ps => ps.length

/-- The written values of a burst of `n` pixels from a record's progress (R105). -/
def ApplyRecord.values (r : ApplyRecord) (n : Nat) : List Pixel :=
  match r.paint with
  | .fill c => List.replicate n c
  | .run ps => (ps.drop (r.row * r.rect.width + r.col)).take n

/-- The pixels one burst covers from a column of a row of `w`, up to `most` (R105, R119, R165). -/
def burstCount (most w col : Nat) : Nat := min most (w - col)

end Sys2Proof.Machine
end

