-- ==== Sys2Proof/Machine/Flags.lean ====
section
/-! DEFINITION. The status unit: the report record, its capture and its layout (R178, R179, R185). -/

namespace Sys2Proof.Machine

def StationState.code : StationState → Byte
  | .listening => 0 | .joining => 1 | .member => 2 | .idleOut => 3 | .rejected => 4

def BufState.code : BufState → Byte
  | .free => 0 | .bound => 1 | .heldImage => 2 | .releasing => 3

def FrameState.code : FrameState → Byte
  | .init => 0 | .filling => 1 | .sealed => 2 | .drained => 3 | .ready => 4 | .committed => 5
  | .shown => 6 | .retiring => 7

/-- The required stations that are not ready (R89). -/
def FrameRecord.missingStations (r : FrameRecord) : StationSet :=
  r.requiredStations &&& ~~~r.readyStations

/-- The required sources that are not closed (R89). -/
def FrameRecord.missingSources (r : FrameRecord) : PartySet :=
  r.requiredSources &&& ~~~r.closedSources

/-- Stored pixels of the records in the queue (R100). -/
def storedPixels (q : List ApplyRecord) : Nat := (q.map fun r => r.paint.stored).sum

/-- The report record as the station's blocks stand (R178). -/
structure ReportRecord where
  state : StationState
  station : BitVec 5
  tile : Byte
  profile : BitVec 2
  refresh : Refresh
  freeRun : Bool
  members : StationSet
  dutyHolder : Option Nat
  voidStreak : Nat
  lastOpened : Option FrameNo
  f0 : Option FrameNo
  buffers : Buffers
  records : List FrameRecord
  applyRecords : Nat
  applyPixels : Nat
  reads : List ReadRecord
  counters : Counters
  deriving DecidableEq, Repr

/-- The capture of the report record (R178). -/
def Station.report (s : Station) : ReportRecord :=
  { state := s.mbr.state, station := s.straps.station, tile := s.tileByte
    profile := s.straps.profile, refresh := s.ftc.refresh, freeRun := s.scn.freeRun
    members := s.mbr.memberSet, dutyHolder := s.mbr.dutyHolder, voidStreak := s.tbi.voidStreak
    lastOpened := s.ftc.lastOpened, f0 := s.ftc.f0, buffers := s.ftc.buffers
    records := s.ftc.records, applyRecords := s.inq.length, applyPixels := storedPixels s.inq
    reads := s.rbe, counters := s.stu.counters }

/-- A presence byte and a frame number, 0 and 0 when absent (R185). -/
def optionalFrame : Option FrameNo → List Byte
  | none => [0, 0, 0]
  | some n => 1 :: bytes16 n

/-- A buffer entry: state, then the frame number when BOUND (11.4). -/
def BufDesc.reportBytes (d : BufDesc) : List Byte :=
  d.state.code :: bytes16 (if d.state = .bound then d.frame.getD 0 else 0)

/-- A frame record entry (11.4). -/
def FrameRecord.reportBytes (r : FrameRecord) : List Byte :=
  bytes16 r.frame ++ [r.state.code, flagByte r.stalled] ++ bytes32 r.missingStations ++
    bytes32 (r.missingSources.extractLsb' 32 32)

/-- A read record entry (11.4). -/
def ReadRecord.reportBytes (r : ReadRecord) : List Byte :=
  [BitVec.ofNat 8 r.requester, r.tag] ++ bytes16 r.frame ++ [BitVec.ofNat 8 r.unconfirmed]

/-- The report record in the layout of 11.4 (R185). -/
def ReportRecord.bytes (r : ReportRecord) : List Byte :=
  [r.state.code, r.station.setWidth 8, r.tile, r.profile.setWidth 8] ++
  bytes16 r.refresh ++ [flagByte r.freeRun] ++ bytes32 r.members ++
  [match r.dutyHolder with | some x => BitVec.ofNat 8 x | none => 0xFF] ++
  [BitVec.ofNat 8 r.voidStreak] ++ optionalFrame r.lastOpened ++ optionalFrame r.f0 ++
  r.buffers.b0.reportBytes ++ r.buffers.b1.reportBytes ++ r.buffers.b2.reportBytes ++
  [BitVec.ofNat 8 r.records.length] ++ r.records.flatMap FrameRecord.reportBytes ++
  [BitVec.ofNat 8 r.applyRecords] ++ bytes16 (BitVec.ofNat 16 r.applyPixels) ++
  [BitVec.ofNat 8 r.reads.length] ++ r.reads.flatMap ReadRecord.reportBytes ++
  Counter.all.flatMap fun c => bytes16 (BitVec.ofNat 16 (r.counters.get c))

/-- All 21 counters zeroed together (R175, R179). -/
def Station.zeroCounters (s : Station) : Station := s.onStu fun u => { u with counters := {} }

/-- The pending report flag set or cleared (R175). -/
def Station.setPendingReport (v : Bool) (s : Station) : Station :=
  s.onStu fun u => { u with pendingReport := v }

/-- A query taken by this station: an entry queued and the flag set, or the query merged into the
pending entry (R14, R176, R177). -/
def Station.takeQuery (requester : Nat) (clear : Bool) (s : Station) : Station :=
  if s.stu.pendingReport then
    s.onTbi fun t => { t with queue := t.queue.map fun e =>
      match e.msg with
      | .statusReport _ c => { e with msg := .statusReport requester (c || clear) }
      | _ => e }
  else (s.onTbi (Tbi.push (.statusReport requester clear))).setPendingReport true

end Sys2Proof.Machine
end

