-- ==== Sys2Proof/Machine/Frames.lean ====
section
/-! DEFINITION. The frame table controller and the init engine where they act together: READY queued,
copies begun, records sealed, initialised, drained, opened and shown (chapters 3, 4 and 6). -/

namespace Sys2Proof.Machine

/-! ## Draining (R60, R76, R117) -/

/-- READY(N) is queued when its record is DRAINED with none queued and its predecessor is not held or
has committed (R76). -/
def Station.queueReady (n : FrameNo) (s : Station) : Station :=
  match s.ftc.find n with
  | some r =>
    if r.state = .drained ∧ s.ftc.predecessorCommitted n = true ∧
        s.tbi.queue.any (fun e => e.msg.isReadyOf n) = false then
      s.onTbi (Tbi.push (.ready n))
    else s
  | none => s

/-- The active COPY job begins: its source is the predecessor's buffer and the predecessor takes a
pin (R117). -/
def Station.beginCopy (s : Station) : Station :=
  match s.fie with
  | j :: js =>
    match s.ftc.find (j.frame - 1) with
    | some p =>
      (s.onFie fun _ => { j with source := some p.buffer, phase := .running } :: js).onFtc
        (Ftc.pinUp p.frame)
    | none => s
  | [] => s

/-- A job WAITING for frame N begins its copy when N drains (R117). -/
def Station.wakeCopy (n : FrameNo) (s : Station) : Station :=
  match s.fie with
  | j :: _ => if j.work = .copy ∧ j.phase = .waiting ∧ j.frame - 1 = n then s.beginCopy else s
  | [] => s

/-- Frame N enters DRAINED: the barrier queues its READY and a waiting copy begins (R60, R76, R117). -/
def Station.drain (n : FrameNo) (s : Station) : Station :=
  ((s.onFtc (Ftc.setState n .drained)).queueReady n).wakeCopy n

/-- A sealed record in FILLING moves to SEALED, or to DRAINED with nothing pending (R60). -/
def Station.applySeal (n : FrameNo) (s : Station) : Station :=
  match s.ftc.find n with
  | some r =>
    if r.state = .filling ∧ r.isSealed = true then
      if 0 < r.pending then s.onFtc (Ftc.setState n .sealed) else s.drain n
    else s
  | none => s

/-- The init engine reports frame N initialised: it leaves INIT (R64). -/
def Station.initDone (n : FrameNo) (s : Station) : Station :=
  match s.ftc.find n with
  | some r =>
    if r.state = .init then
      if r.isSealed = false then s.onFtc (Ftc.setState n .filling)
      else if 0 < r.pending then s.onFtc (Ftc.setState n .sealed)
      else s.drain n
    else s
  | none => s

/-- The apply engine reports a finished record of frame N: the pending count falls, and a SEALED
record drains at 0 (R65). -/
def Station.pendingDown (n : FrameNo) (s : Station) : Station :=
  let s' := s.onFtc (Ftc.onRecord n fun r => { r with pending := r.pending - 1 })
  match s'.ftc.find n with
  | some r => if r.state = .sealed ∧ r.pending = 0 then s'.drain n else s'
  | none => s'

/-- A write kept for frame N: its pending count rises (R65). -/
def Ftc.pendingUp (n : FrameNo) (t : Ftc) : Ftc :=
  t.onRecord n fun r => { r with pending := r.pending + 1 }

/-! ## The init engine's jobs (R115, R116, R121) -/

/-- The job at the head of the list becomes active and takes its phase (R116). -/
def Station.activateJob (s : Station) : Station :=
  match s.fie with
  | j :: js =>
    if j.phase = .queued then
      match j.work with
      | .fill _ => s.onFie fun _ => { j with phase := .running } :: js
      | .copy =>
        match s.ftc.find (j.frame - 1) with
        | some p =>
          if p.state.hasDrained then s.beginCopy
          else s.onFie fun _ => { j with phase := .waiting } :: js
        | none => s.onFie fun _ => { j with phase := .waiting } :: js
    else s
  | [] => s

/-- A job added at the tail, active at once on an empty list (R115). -/
def Station.addJob (n : FrameNo) (work : InitWork) (target : Buf) (s : Station) : Station :=
  (s.onFie fun js => js ++ [{ frame := n, work, target, source := none, phase := .queued
                              row := 0, col := 0 }]).activateJob

/-- Black with A 0: colour 0 in all four channels (R115). -/
def Pixel.zero : Pixel := ⟨0, 0, 0, 0⟩

/-- The init engine takes the record of OPEN(N) (R115, R122). -/
def Station.takeInit (n : FrameNo) (mode : InitMode) (colour : Pixel) (target : Buf) (s : Station) :
    Station :=
  match mode with
  | .clear => s.addJob n (.fill colour) target
  | .seed =>
    if (s.ftc.find (n - 1)).isSome then s.addJob n .copy target
    else (s.count .seedMissing).addJob n (.fill Pixel.zero) target
  | .keep => s.initDone n

/-- The active job completes: the copy's pin, the list, the report, the next job (R121). -/
def Station.completeJob (s : Station) : Station :=
  match s.fie with
  | j :: _ =>
    let s1 := if j.work = .copy then s.onFtc (Ftc.pinDown (j.frame - 1)) else s
    ((s1.onFie List.tail).initDone j.frame).activateJob
  | [] => s

/-! ## Opening, closing and dropping (R54, R56, R62, R63) -/

/-- The first values of a frame record (R53). -/
def FrameRecord.opened (n : FrameNo) (b : Buf) (mode : InitMode) (colour : Option Pixel)
    (sources : PartySet) (stations : StationSet) : FrameRecord :=
  { frame := n, buffer := b, state := .init, mode, colour := if mode = .clear then colour else none
    requiredSources := sources, closedSources := 0, requiredStations := stations
    readyStations := 0, pending := 0, pins := 0, showRefresh := none, stallCount := 0
    stalled := false }

/-- OPEN(N) stands at a MEMBER with a FREE buffer: the buffer is bound, the record made, F0 set if
unset and the init engine started (R56, R58). -/
def Station.openRecord (n : FrameNo) (mode : InitMode) (colour : Option Pixel) (sources : PartySet)
    (s : Station) : Station :=
  match s.ftc.freeBuffer with
  | none => s
  | some b =>
    let rec' := FrameRecord.opened n b mode colour sources s.mbr.memberSet
    (s.onFtc fun t =>
      { t.onBuffer b (fun d => { d with state := .bound, frame := some n }) with
        records := t.records ++ [rec'], f0 := t.f0.or (some n) }).takeInit n mode
          (colour.getD Pixel.zero) b

/-- CLOSE(N) of a source stands at a MEMBER (R62). -/
def Station.closeRecord (n : FrameNo) (source : Nat) (s : Station) : Station :=
  (s.onFtc (Ftc.onRecord n fun r =>
    { r with closedSources := r.closedSources ||| partyBit source })).applySeal n

/-- A source removed from the sets of a record in INIT or FILLING (R63). -/
def FrameRecord.dropSource (p : Nat) (r : FrameRecord) : FrameRecord :=
  if r.state.isOpen then
    { r with requiredSources := r.requiredSources &&& ~~~partyBit p
             closedSources := r.closedSources &&& ~~~partyBit p }
  else r

/-- DROP of party p stands at a MEMBER; a number outside 32 to 63 changes nothing (R63). -/
def Station.dropSource (p : Nat) (s : Station) : Station :=
  if 32 ≤ p ∧ p < 64 then
    let s' := s.onFtc fun t => { t with records := t.records.map (FrameRecord.dropSource p) }
    (s.ftc.records.map (·.frame)).foldl (fun s n => s.applySeal n) s'
  else s

/-! ## The refresh number, commit and show (R74, R80, R83) -/

/-- The commit decision of an accepted TICK, with the show refresh it would set (R80). -/
def Station.commit (show_ : Refresh) (late : Bool) (s : Station) : Station :=
  match s.ftc.oldest (· == .ready) with
  | none => s
  | some r =>
    if r.barrierComplete = true ∧ s.ftc.predecessorCommitted r.frame = true ∧
        (s.ftc.oldest (· == .committed)).isNone = true then
      let s1 := s.onFtc (Ftc.onRecord r.frame fun r =>
        { r with state := .committed, showRefresh := some show_ })
      (if late then s1.count .lateShow else s1).queueReady (r.frame + 1)
    else s

/-- The show refresh of a COMMITTED record set at a slip (R74). -/
def Ftc.slip (r : Refresh) (t : Ftc) : Ftc :=
  { t with refresh := r, records := t.records.map fun k =>
      if k.state = .committed then { k with showRefresh := some (r + 1) } else k }

/-- The FTC acts on an accepted TICK: the count is compared, then the commit decision made (R74). -/
def Station.acceptTick (r : Refresh) (s : Station) : Station :=
  if s.ftc.refresh = r then s.commit (r + 1) false
  else if s.ftc.refresh = r + 1 then s.commit (r + 2) true
  else ((s.onFtc (Ftc.slip r)).count .countSlip).commit (r + 1) false

/-- The record SHOWN before this pulse goes to RETIRING when pinned, or is dropped; a held image is
released (R68). -/
def Ftc.replaceFront (t : Ftc) : Ftc :=
  let t1 := match t.records.find? (fun r => r.state == .shown) with
    | some r => if 0 < r.pins then t.setState r.frame .retiring else t.dropRecord r.frame
    | none => t
  match t1.heldImage with
  | some b => t1.release b
  | none => t1

/-- The COMMITTED record whose show refresh the count has reached is shown (R83). -/
def Ftc.show_ (t : Ftc) : Ftc :=
  match t.oldest (· == .committed) with
  | some r =>
    if r.showRefresh = some t.refresh then
      t.replaceFront.onRecord r.frame fun r => { r with state := .shown, showRefresh := none }
    else t
  | none => t

/-! ## The stall watch (R87, R88) -/

/-- A record's stall count after a pulse (R87). -/
def FrameRecord.stallPulse (limit : Nat) (r : FrameRecord) : FrameRecord :=
  if r.state.isUncommitted ∧ r.stallCount < limit then { r with stallCount := r.stallCount + 1 }
  else r

/-- The frame that a pulse flags as stalled, from records whose counts have moved (R88). -/
def Ftc.stallsAt (limit : Nat) (t : Ftc) : Option FrameNo :=
  match t.oldest FrameState.isUncommitted with
  | some r => if r.stallCount = limit ∧ r.stalled = false then some r.frame else none
  | none => none

def Station.stallLimit (s : Station) : Nat := Machine.stallLimit s.straps.stall

/-- The stall watch at a pulse (R87, R88). -/
def Station.stallPulse (s : Station) : Station :=
  let s1 := s.onFtc fun t => { t with records := t.records.map (FrameRecord.stallPulse s.stallLimit) }
  match s1.ftc.stallsAt s.stallLimit with
  | some n => (s1.onFtc (Ftc.onRecord n fun r => { r with stalled := true })).count .stall
  | none => s1

/-- The FTC at a pulse: the refresh number, the show at a MEMBER, the stall watch (R73, R83, R87). -/
def Station.ftcPulse (s : Station) : Station :=
  let s1 := s.onFtc fun t => { t with refresh := t.refresh + 1 }
  (if s.mbr.state = .member then s1.onFtc Ftc.show_ else s1).stallPulse

end Sys2Proof.Machine
end

