-- ==== Sys2Proof/Machine/Withdrawal.lean ====
section
/-! DEFINITION. Withdrawal, the one shared operation of its three causes: what every block drops and keeps
(R21, R48, R71, R90, R113, R125, R140, R158, R174, R181). -/

namespace Sys2Proof.Machine

/-- The TBI at a withdrawal: the queue emptied, no held TICK, a streak of 0 (R21). -/
def Tbi.withdraw (t : Tbi) : Tbi :=
  { t with queue := [], heldTick := none, voidStreak := 0, contending := false, sending := none }

/-- The membership unit at a withdrawal (R48). -/
def Mbr.withdraw (dest : StationState) (_m : Mbr) : Mbr :=
  { state := dest, roster := Mbr.emptyRoster, tickWatch := 0, retryCount := 0, joinWait := 0
    dutyHolder := none, holderRemoved := false, suspectOrigin := none }

/-- A buffer at a withdrawal: the SHOWN record's becomes the held image, an earlier held image is
kept unless one replaces it, every other BOUND buffer is released (R70, R71). -/
def BufDesc.withdraw (shown : Option Buf) (b : Buf) (d : BufDesc) : BufDesc :=
  if shown = some b then { d with state := .heldImage, frame := none }
  else if d.state = .bound then d.release
  else if d.state = .heldImage ∧ shown.isSome then d.release
  else d

/-- The frame table at a withdrawal (R71). -/
def Ftc.withdraw (t : Ftc) : Ftc :=
  let shown := (t.records.find? fun r => r.state == .shown).map (·.buffer)
  { buffers := { b0 := t.buffers.b0.withdraw shown .b0, b1 := t.buffers.b1.withdraw shown .b1
                 b2 := t.buffers.b2.withdraw shown .b2 }
    records := [], lastOpened := none, f0 := none, refresh := t.refresh }

/-- A burst of the apply, init or read engine loses its work; SCAN and MREF bursts keep theirs
(R113, R125, R139, R174). -/
def Burst.withdraw (b : Burst) : Burst :=
  match b.work with
  | .scan _ _ _ | .mref => b
  | .apply _ _ _ _ _ | .initFill _ _ | .initCopy _ _ | .read _ _ _ => { b with dropped := true }

/-- A withdrawal to a station state: IDLE_OUT for the own standing LEAVE, LISTENING otherwise. -/
def Station.withdraw (dest : StationState) (s : Station) : Station :=
  let s1 : Station :=
    { s with tbi := s.tbi.withdraw, mbr := s.mbr.withdraw dest, ftc := s.ftc.withdraw
             inq := [], fie := [], rbe := []
             mar := { s.mar with burst := s.mar.burst.map Burst.withdraw } }
  (s1.count .withdrawals).setPendingReport false

end Sys2Proof.Machine
end

