-- ==== Sys2Proof/Machine/Bus.lean ====
section
/-! DEFINITION. The tile bus interface: offers, arbitration, a message's decision and verdict, the outcome
of an own message, and the pin reset (chapter 1). -/

namespace Sys2Proof.Machine

/-! ## Liveness: RESET# (R20, R126, R143, R175) -/

/-- An event takes effect only while RESET# is released; while it is asserted the station takes no
event. -/
def onLive (f : Station → Station) (s : State) : Host.Outcome State Fault Refusal :=
  if s.resetAsserted then .next s else .next { s with toStation := f s.toStation }

/-! ## Offers (R11) -/

def TxEntry.cls (e : TxEntry) : Nat := e.msg.kind.cls

/-- The oldest entry of a class made the current offer. -/
def offerFirst (c : Nat) : List TxEntry → List TxEntry
  | [] => []
  | e :: es => if e.cls = c then { e with status := .offer } :: es else e :: offerFirst c es

/-- The lowest class present. -/
def lowestClass (q : List TxEntry) : Nat := q.foldl (fun c e => min c e.cls) 4

/-- The current offer kept, or else chosen: the oldest entry of the lowest class (R11). -/
def Tbi.chooseOffer (t : Tbi) : Tbi :=
  if t.queue.any (fun e => e.status == .offer) then t
  else { t with queue := offerFirst (lowestClass t.queue) t.queue }

/-- The bus falls idle: the TBI chooses and contends (R11). Nothing happens while a message is on
the bus. -/
def Tbi.idle (t : Tbi) : Tbi :=
  if t.receiving.isSome || t.sending.isSome then t
  else { t.chooseOffer with contending := !t.queue.isEmpty, inStep := true }

/-! ## Arbitration (R2, R12, R178, R179) -/

/-- The message an entry is sent as: a BEACON's body and a report record are assembled at the win
(R12). -/
def Station.assemble (m : TxMsg) (s : Station) : Message :=
  match m with
  | .tick r => .tick r
  | .suspect x => .suspect (BitVec.ofNat 8 x)
  | .join t => .join t
  | .leave => .leave
  | .ready n => .ready n
  | .beacon => .beacon s.tileByte s.ftc.refresh s.mbr.memberSet s.ftc.lastOpened
  | .readReply b => .readReply b
  | .statusReport q _ => .statusReport (BitVec.ofNat 8 q) s.report.bytes

/-- The current offer in transmission. -/
def Tbi.win (m : Message) (t : Tbi) : Tbi :=
  { t with queue := t.queue.map fun e => if e.status = .offer then { e with status := .sending } else e
           contending := false, sending := some m }

/-- The current offer wins: its message is assembled, and a report whose clear flag is set zeroes
the counters after their capture (R12, R179). -/
def Station.winArbitration (e : TxEntry) (s : Station) : Station :=
  let s1 := s.onTbi (Tbi.win (s.assemble e.msg))
  match e.msg with
  | .statusReport _ true => s1.zeroCounters
  | _ => s1

/-- Arbitration against other contenders' words: the lowest word wins, an equal word drops nobody
out, a loser keeps its offer (R2, R3). -/
def Station.arbitrate (others : List Byte) (s : Station) : Station :=
  if s.tbi.contending then
    match s.tbi.queue.find? (fun e => e.status == .offer) with
    | some e =>
      let w := arbWord e.cls s.number
      if others.any (fun o => o.toNat < w.toNat) then
        s.onTbi fun t => { t with contending := false }
      else s.winArbitration e
    | none => s.onTbi fun t => { t with contending := false }
  else s

/-! ## The decision on a message (R5, R6, R7) -/

/-- What a member decides on a message: to refuse it for a reason, or to pass it with something set
aside. -/
inductive Decision where
  | refuse (reason : Counter)
  | pass (aside : SetAside)
  deriving DecidableEq, Repr

/-- A decision on a message of a sender. -/
abbrev Decide := Nat → Message → Station → Decision

/-- A kind that every member passes with nothing set aside (R6). -/
def passes : Decide := fun _ _ _ => .pass .nothing

/-- The message in hand recorded, with what the station asserts. -/
def Tbi.receive (r : Receiving) (t : Tbi) : Tbi := { t with receiving := some r, contending := false }

/-- A message found damaged: the damage slot is to be asserted in the verdict field, nothing else is done
(R5). DAMAGE_MARKED is counted there (log 36). -/
def Station.hearDamaged (code : Byte) (h : Heard) (s : Station) : Station :=
  s.onTbi (Tbi.receive
    { code, sender := wordParty h.word, message := none, own := s.tbi.sending.isSome
      refused := false, aside := .nothing })

/-- A message found undamaged: a MEMBER decides on another party's, any other station and the sender
assert nothing (R6, R7). -/
def Station.hearUndamaged (code : Byte) (sender : Nat) (m : Message) (decide : Decide) (s : Station) :
    Station :=
  let r : Receiving :=
    { code, sender, message := some m, own := s.tbi.sending.isSome, refused := false
      aside := .nothing }
  if r.own = false ∧ s.mbr.state = .member then
    match decide sender m s with
    | .refuse c => (s.onTbi (Tbi.receive { r with refused := true })).count c
    | .pass a => s.onTbi (Tbi.receive { r with aside := a })
  else s.onTbi (Tbi.receive r)

/-- A message can be received: the station is in step with the bus and has none in hand. -/
def Tbi.canHear (t : Tbi) : Bool := t.inStep && t.receiving.isNone

/-- The check code of a message of a kind arrives (R4, R5, R6). -/
def Station.hear (k : Kind) (decide : Decide) (h : Heard) (s : Station) : Station :=
  if s.tbi.canHear then
    match readMessage k h with
    | none => s.hearDamaged k.code h
    | some m => s.hearUndamaged k.code (wordParty h.word) m decide
  else s

/-! ## The verdict (R8, R9, R16, R17) -/

/-- A TICK held while the previous one was in transmission is entered (R13). -/
def Tbi.enterHeldTick (t : Tbi) : Tbi :=
  match t.heldTick with
  | some r => { t.push (.tick r) with heldTick := none }
  | none => t

/-- The entry in transmission leaves the queue. -/
def Tbi.removeSent (t : Tbi) : Tbi :=
  { t with queue := t.queue.filter fun e => !(e.status == .sending), sending := none }

/-- The entry in transmission stays, to be offered again (R17). -/
def Tbi.keepSent (t : Tbi) : Tbi :=
  { t with queue := t.queue.map fun e => if e.status = .sending then { e with status := .waiting } else e
           sending := none }

/-- The own message stands: its entry leaves, the streak is 0, a held TICK is entered (R13, R16). -/
def Tbi.ownStands (t : Tbi) : Tbi := { t.removeSent with voidStreak := 0 }.enterHeldTick

/-- The watch that raised a SUSPECT restarts at 0, and its origin is cleared (R17, R42). -/
def Mbr.suspectVoid (m : Mbr) : Mbr :=
  match m.suspectOrigin with
  | some .tickWatch => { m with tickWatch := 0, suspectOrigin := none }
  | some (.beaconWatch x) => { m.clearWatch x with suspectOrigin := none }
  | none => m

/-- REJECTED entered: the queued JOIN removed, the join state 0, the roster cleared (R29). -/
def Station.reject (s : Station) : Station :=
  (s.onMbr fun m => { m with state := .rejected, roster := Mbr.emptyRoster, tickWatch := 0
                             retryCount := 0, joinWait := 0 }).onTbi (Tbi.removeWaiting TxMsg.isJoin)

/-- The own JOIN is void: a retry counted, then a wait of 4 pulses or REJECTED at the 16th (R31). -/
def Station.joinVoid (s : Station) : Station :=
  if s.mbr.state = .joining then
    if s.mbr.retryCount + 1 < 16 then
      s.onMbr fun m => { m with retryCount := m.retryCount + 1, joinWait := 4 }
    else s.reject
  else s

/-- The void handling of the own entry by its kind (R17). -/
def Station.ownVoidKind (m : TxMsg) (s : Station) : Station :=
  match m with
  | .ready _ | .leave | .readReply _ | .statusReport _ _ => s.onTbi Tbi.keepSent
  | .tick _ | .beacon => s.onTbi Tbi.removeSent
  | .suspect _ => (s.onTbi Tbi.removeSent).onMbr Mbr.suspectVoid
  | .join _ => (s.onTbi Tbi.removeSent).joinVoid

/-- The void streak after an own void; a bus fault at 32 withdraws the station (R18, R19). -/
def Station.streak (damage : Bool) (s : Station) : Station :=
  if damage then
    if s.tbi.voidStreak + 1 < 32 then s.onTbi fun t => { t with voidStreak := t.voidStreak + 1 }
    else s.withdraw .listening
  else s

/-- The own message is void (R17, R18, R19). -/
def Station.ownVoid (damage : Bool) (s : Station) : Station :=
  let s1 := s.count .ownVoided
  let s2 := match s1.tbi.inTransmission with
    | some e => s1.ownVoidKind e.msg
    | none => s1.onTbi fun t => { t with sending := none }
  (s2.onTbi Tbi.enterHeldTick).streak damage

/-- What a standing message does at this station. -/
abbrev Stands := Receiving → Station → Station

/-- The slots of the verdict field with this station's own among them (R8, R183). -/
def Receiving.slots (r : Receiving) (number : Nat) (others : Slots) : Slots :=
  { refusals := others.refusals ||| (if r.refused then stationBit number else 0)
    damage := others.damage || r.message.isNone }

/-- A message stands when every slot is clear (R8). -/
def slotsClear (v : Slots) : Bool := v.refusals == 0 && !v.damage

/-- The message in hand is over; DAMAGE_MARKED is counted when this station asserted the damage slot on it
(R5, R179; log 36). -/
def Station.closeReceiving (r : Receiving) (s : Station) : Station :=
  (if r.message.isNone then s.count .damageMarked else s).onTbi fun t => { t with receiving := none }

/-- The verdict field of the message in hand passes: it stands and is delivered, or is void and what
was set aside is given back (R8, R9, R16, R17). A message the station took no part in ends there and
leaves it in step with the bus (R20). -/
def Station.verdict (code : Byte) (stands : Stands) (others : Slots) (s : Station) : Station :=
  match s.tbi.receiving with
  | none => s.onTbi fun t => { t with inStep := true }
  | some r =>
    if r.code = code then
      let s1 := s.closeReceiving r
      let v := r.slots s.number others
      if slotsClear v then stands r (if r.own then s1.onTbi Tbi.ownStands else s1)
      else if r.own then s1.ownVoid v.damage
      else s1
    else s

/-- A message event of a listed kind: its decision, its verdict, or both. A second message cannot
begin before the first one's verdict (R1). -/
def Station.message (k : Kind) (decide : Decide) (stands : Stands) (e : MsgEvent) (s : Station) :
    Station :=
  match e with
  | .checkCode h => s.hear k decide h
  | .verdict v => s.verdict k.code stands v
  | .whole h v =>
    if s.tbi.receiving.isSome then s else (s.hear k decide h).verdict k.code stands v

/-- A message of an unknown kind is damaged (R4, R5). -/
def Station.hearUnknown (code : Byte) (h : Heard) (s : Station) : Station :=
  if s.tbi.canHear then s.hearDamaged code h else s

/-- A message event of an unknown kind: it is void, delivered to no block (R4, R5, R8). -/
def Station.unknownMessage (code : Byte) (e : MsgEvent) (s : Station) : Station :=
  match e with
  | .checkCode h => s.hearUnknown code h
  | .verdict v => s.verdict code (fun _ s => s) v
  | .whole h v =>
    if s.tbi.receiving.isSome then s
    else (s.hearUnknown code h).verdict code (fun _ s => s) v

end Sys2Proof.Machine
end

