-- ==== Sys2Proof/Machine/Membership.lean ====
section
/-! DEFINITION. The membership unit: joining, the roster, watches and suspicion, what the membership
messages do when they stand, and its part of a pulse (chapter 2). -/

namespace Sys2Proof.Machine

/-! ## Joining (R28, R29) -/

/-- Entry `i` clashes with this station: its own entry is MEMBER, or another MEMBER has its tile. -/
def Station.entryConflicts (s : Station) (i : Nat) (e : RosterEntry) : Bool :=
  e.member && (i == s.number || e.tile == some s.tile)

/-- Whether any entry from index `i` on clashes. -/
def Station.anyConflict (s : Station) : Nat → List RosterEntry → Bool
  | _, [] => false
  | i, e :: es => s.entryConflicts i e || s.anyConflict (i + 1) es

/-- The pre-check finds a conflict (R29). -/
def Station.preCheckConflict (s : Station) : Bool := s.anyConflict 0 s.mbr.roster

/-- The pre-check while JOINING: a conflict leads to REJECTED (R29). -/
def Station.preCheck (s : Station) : Station :=
  if s.mbr.state = .joining ∧ s.preCheckConflict = true then s.reject else s

/-- The pre-check, then a JOIN queued when there is no conflict (R28, R31). -/
def Station.tryJoin (s : Station) : Station :=
  if s.preCheckConflict then s.reject else s.onTbi (Tbi.pushOnce (.join s.tileByte))

/-- JOINING entered from LISTENING (R28). -/
def Station.enterJoining (s : Station) : Station :=
  (s.onMbr fun m => { m with state := .joining, tickWatch := 0, retryCount := 0, joinWait := 0 }).tryJoin

/-! ## Removal at a MEMBER (R24, R57) -/

/-- A MEMBER removes station x and hands the removal to the frame table. -/
def Station.removeStation (x : Nat) (s : Station) : Station :=
  (s.onMbr (Mbr.lose x)).onFtc (Ftc.prune x)

/-- A queued SUSPECT of x is removed, no watch restarted; its origin goes with it (R15, log 14). -/
def Station.removeSuspect (x : Nat) (s : Station) : Station :=
  let s1 := s.onTbi (Tbi.removeWaiting (TxMsg.isSuspectOf x))
  if s1.tbi.holds .suspect then s1 else s1.onMbr fun m => { m with suspectOrigin := none }

/-- Station x is lost, by SUSPECT or LEAVE: what a MEMBER, a listener or a joiner does (R27, R43,
R45). A MEMBER that another party's LEAVE names by its own number stays as it is (DESIGN CHOICE, log 37). -/
def Station.loseStation (x : Nat) (s : Station) : Station :=
  match s.mbr.state with
  | .member =>
    if x ≠ s.number ∧ s.mbr.isMember x = true then (s.removeStation x).removeSuspect x else s
  | .listening | .joining =>
    if s.mbr.isMember x then (s.onMbr (Mbr.remove x)).preCheck else s
  | .idleOut | .rejected => s

/-! ## Standing messages -/

/-- Own SUSPECT out of the queue: its origin is cleared (log 14). -/
def suspectStands : Stands := fun r s =>
  match r.message with
  | some (.suspect x) =>
    (if r.own then s.onMbr fun m => { m with suspectOrigin := none } else s).loseStation x.toNat
  | _ => s

/-- The station becomes a MEMBER at its own standing JOIN (R30). -/
def Station.becomeMember (s : Station) : Station :=
  (s.onMbr fun m =>
    { Mbr.add s.number (some s.tile) m with
      state := .member
      roster := (Mbr.add s.number (some s.tile) m).roster.map fun e => { e with watch := 0 }
      tickWatch := 0, retryCount := 0, joinWait := 0, dutyHolder := none
      holderRemoved := false }).onFtc
    fun t => { t with f0 := none }

/-- Another station's JOIN: added, or re-admitted after removal (R27, R33). -/
def Station.hearJoin (x : Nat) (tile : Tile) (s : Station) : Station :=
  match s.mbr.state with
  | .member =>
    (if s.mbr.isMember x then s.removeStation x else s).onMbr (Mbr.add x (some tile))
  | .listening | .joining => (s.onMbr (Mbr.add x (some tile))).preCheck
  | .idleOut | .rejected => s

def joinStands : Stands := fun r s =>
  match r.message with
  | some (.join t) => if r.own then s.becomeMember else s.hearJoin r.sender (tileOfByte t)
  | _ => s

/-- LEAVE: the leaver withdraws to IDLE_OUT, the others remove it (R45). -/
def leaveStands : Stands := fun r s =>
  match r.message with
  | some .leave => if r.own then s.withdraw .idleOut else s.loseStation r.sender
  | _ => s

/-- WALL_RESET: every station withdraws to LISTENING (R47). -/
def wallResetStands : Stands := fun r s =>
  match r.message with
  | some .wallReset => s.withdraw .listening
  | _ => s

/-- ORDER_LEAVE naming this MEMBER: a LEAVE is queued (R44). -/
def orderLeaveStands : Stands := fun r s =>
  match r.message with
  | some (.orderLeave x) =>
    if x.toNat = s.number ∧ s.mbr.state = .member then s.onTbi (Tbi.pushOnce .leave) else s
  | _ => s

/-- ORDER_REJOIN naming this station in IDLE_OUT or REJECTED: LISTENING entered (R46). -/
def orderRejoinStands : Stands := fun r s =>
  match r.message with
  | some (.orderRejoin x) =>
    if x.toNat = s.number ∧ (s.mbr.state = .idleOut ∨ s.mbr.state = .rejected) then
      s.onMbr fun m => { m with state := .listening, roster := Mbr.emptyRoster, tickWatch := 0
                                retryCount := 0, joinWait := 0 }
    else s
  | _ => s

/-- A roster replaced by a BEACON's member set, own number excluded, known tiles of the listed kept,
then the sender added with the BEACON's tile (R26, R27). -/
def Mbr.adopt (own sender : Nat) (tile : Tile) (members : StationSet) (m : Mbr) : Mbr :=
  Mbr.add sender (some tile)
    { m with roster := mapRoster (fun i e =>
        if members.getLsbD i = true ∧ i ≠ own then
          { member := true, tile := e.tile, watch := 0 }
        else RosterEntry.absent) 0 m.roster }

/-- The wall that a BEACON describes, taken by a listener or a joiner (R26, R27). -/
def Station.adoptWall (sender : Nat) (tile : Tile) (members : StationSet) (last : Option FrameNo)
    (s : Station) : Station :=
  (s.onMbr (Mbr.adopt s.number sender tile members)).onFtc
    fun t => { t with lastOpened := last.or t.lastOpened }

/-- BEACON: a MEMBER resets the sender's watch and records its tile, a listener adopts the wall and
enters JOINING, a joiner keeps in step (R26, R27, R38). -/
def beaconStands : Stands := fun r s =>
  match r.message with
  | some (.beacon t _ members last) =>
    match s.mbr.state with
    | .member =>
      if r.sender ≠ s.number ∧ s.mbr.isMember r.sender = true then
        s.onMbr (Mbr.add r.sender (some (tileOfByte t)))
      else s
    | .listening => (s.adoptWall r.sender (tileOfByte t) members last).enterJoining
    | .joining => (s.adoptWall r.sender (tileOfByte t) members last).preCheck
    | .idleOut | .rejected => s
  | _ => s

/-- The beacon slot of an accepted TICK (R37). -/
def Station.beaconSlot (r : Refresh) (s : Station) : Station :=
  if r.toNat % 8 = s.number % 8 then s.onTbi (Tbi.pushOnce .beacon) else s

/-- TICK: a MEMBER accepts it from its duty holder, but from nobody once the holder was removed and until
the next pulse (R43, R45, R81, R85; log 34); a listener takes it as evidence of a wall, a listener or
joiner takes its count (R25, R36, R75). -/
def tickStands : Stands := fun r s =>
  match r.message with
  | some (.tick n) =>
    match s.mbr.state with
    | .member =>
      if s.mbr.tickSender = some r.sender then
        ((s.onMbr fun m => { m with tickWatch := 0 }).beaconSlot n).acceptTick n
      else s
    | .listening =>
      (s.onMbr fun m => { m with tickWatch := 0 }).onFtc fun t => { t with refresh := n }
    | .joining => s.onFtc fun t => { t with refresh := n }
    | .idleOut | .rejected => s
  | _ => s

/-! ## Refusals (R32, R42) -/

/-- Whether a MEMBER entry from index `i` on, other than the joiner's, has this tile. -/
def tileTaken (joiner : Nat) (tile : Tile) : Nat → List RosterEntry → Bool
  | _, [] => false
  | i, e :: es =>
    (e.member && i != joiner && e.tile == some tile) || tileTaken joiner tile (i + 1) es

/-- A MEMBER refuses a JOIN for its number, its tile or its format (R32). -/
def decideJoin : Decide := fun sender m s =>
  match m with
  | .join t =>
    if sender = s.number ∨ tileTaken sender (tileOfByte t) 0 s.mbr.roster = true ∨
        formatOfByte t ≠ s.straps.format then .refuse .joinConflict
    else .pass .nothing
  | _ => .pass .nothing

/-- A MEMBER refuses a SUSPECT of itself (R42). -/
def decideSuspect : Decide := fun _ m s =>
  match m with
  | .suspect x => if x.toNat = s.number then .refuse .suspectDenied else .pass .nothing
  | _ => .pass .nothing

/-! ## The membership unit at a pulse -/

/-- A listener's tick watch; at 6 the wall is empty and JOINING is entered (R25). -/
def Station.listenPulse (s : Station) : Station :=
  if s.mbr.tickWatch + 1 < 6 then s.onMbr fun m => { m with tickWatch := m.tickWatch + 1 }
  else (s.onMbr fun m => { m with roster := Mbr.emptyRoster }).enterJoining

/-- A joiner's wait; at 0 the pre-check is made and a new JOIN queued (R31). -/
def Station.joinPulse (s : Station) : Station :=
  if s.mbr.joinWait = 0 then s
  else if s.mbr.joinWait = 1 then (s.onMbr fun m => { m with joinWait := 0 }).tryJoin
  else s.onMbr fun m => { m with joinWait := m.joinWait - 1 }

/-- The beacon watches of the other members (R39). -/
def raiseWatch (own i : Nat) (e : RosterEntry) : RosterEntry :=
  if e.member = true ∧ i ≠ own ∧ e.watch < 24 then { e with watch := e.watch + 1 } else e

/-- The duty holder and every watch of a MEMBER at a pulse (R34, R39, R40). The tick watch reaches 3
at the duty holder itself as 0, with TICK_STARVED counted by its caller. -/
def Mbr.watchPulse (own : Nat) (m : Mbr) : Mbr :=
  let holder := m.lowestMember
  { m with
    dutyHolder := holder
    holderRemoved := false
    roster := mapRoster (raiseWatch own) 0 m.roster
    tickWatch :=
      if holder ≠ m.dutyHolder then 0
      else if m.tickWatch < 3 then
        (if m.tickWatch + 1 = 3 ∧ holder = some own then 0 else m.tickWatch + 1)
      else m.tickWatch }

/-- The pulse raises the duty holder's own tick watch to 3 (R40). -/
def Mbr.starves (own : Nat) (m : Mbr) : Bool :=
  m.lowestMember == m.dutyHolder && m.tickWatch == 2 && m.dutyHolder == some own

/-- The first entry from index `i` on, another member, with a beacon watch at 24 (R41). -/
def overdue (own : Nat) : Nat → List RosterEntry → Option Nat
  | _, [] => none
  | i, e :: es =>
    if e.member = true ∧ i ≠ own ∧ 24 ≤ e.watch then some i else overdue own (i + 1) es

/-- Whom a MEMBER suspects, and by which watch (R41). -/
def Mbr.choice (own : Nat) (m : Mbr) : Option (Nat × SuspectOrigin) :=
  match m.dutyHolder with
  | some h =>
    if h ≠ own ∧ m.tickWatch = 3 then some (h, .tickWatch)
    else (overdue own 0 m.roster).map fun x => (x, .beaconWatch x)
  | none => (overdue own 0 m.roster).map fun x => (x, .beaconWatch x)

/-- A SUSPECT is queued when none is (R41). -/
def Station.suspectPulse (s : Station) : Station :=
  if s.tbi.holds .suspect then s
  else match s.mbr.choice s.number with
    | some (x, origin) =>
      (s.onTbi (Tbi.push (.suspect x))).onMbr fun m => { m with suspectOrigin := some origin }
    | none => s

/-- The duty holder queues its TICK with the advanced refresh number (R35). -/
def Station.tickPulse (s : Station) : Station :=
  if s.mbr.dutyHolder = some s.number then s.onTbi (Tbi.pushTick s.ftc.refresh) else s

/-- A MEMBER at a pulse: duty, watches, TICK, then SUSPECT (R34, R35, R39, R40, R41). -/
def Station.memberPulse (s : Station) : Station :=
  let s1 := if s.mbr.starves s.number then s.count .tickStarved else s
  ((s1.onMbr (Mbr.watchPulse s.number)).tickPulse).suspectPulse

/-- The membership unit at a pulse, by its state. -/
def Station.mbrPulse (s : Station) : Station :=
  match s.mbr.state with
  | .listening => s.listenPulse
  | .joining => s.joinPulse
  | .member => s.memberPulse
  | .idleOut | .rejected => s

end Sys2Proof.Machine
end

