-- ==== Sys2Proof/Machine/Readback.lean ====
section
/-! DEFINITION. Readback: the decision on a READ_REQUEST, read records and pins, replies and cancelling
(chapter 9). -/

namespace Sys2Proof.Machine

/-- The F0 test of a frame the station does not hold: true when it passes (R59). -/
def Ftc.f0Passes (t : Ftc) (n : FrameNo) : Bool :=
  match t.f0 with
  | none => true
  | some f => n == f - 1 || n == f - 2

/-- The frame a selector resolves to; CURRENT is the COMMITTED record's, else the SHOWN one's (R161). -/
def Ftc.resolve (t : Ftc) (selector : Option FrameNo) : Option FrameNo :=
  match selector with
  | some n => some n
  | none =>
    match t.oldest (· == .committed) with
    | some r => some r.frame
    | none => (t.oldest (· == .shown)).map (·.frame)

/-- The record of a requester and a tag. -/
def ReadRecord.isOf (requester : Nat) (tag : Byte) (r : ReadRecord) : Bool :=
  r.requester == requester && r.tag == tag

/-- A record whose pixels have all been read (R159). -/
def ReadRecord.readOut (r : ReadRecord) : Bool := decide (r.rect.height ≤ r.row)

/-- The seven steps on a READ_REQUEST (R162). -/
def decideReadRequest : Decide := fun sender m s =>
  match m with
  | .readRequest tag selector x y width height =>
    if rectValid x y width height = false then .refuse .badField
    else match s.ftc.resolve selector with
      | none => .pass .nothing
      | some n =>
        match s.ftc.find n with
        | none => if s.ftc.f0Passes n then .pass .nothing else .refuse .frameState
        | some r =>
          match s.clip x y width height with
          | none => .pass .nothing
          | some c =>
            if r.state.isReadable = false then .refuse .frameState
            else if 4 ≤ s.rbe.length then .refuse .readQueueFull
            else if s.rbe.any (ReadRecord.isOf sender tag) then .refuse .badField
            else .pass (.read { requester := sender, tag, frame := n, buffer := r.buffer, rect := c
                                row := 0, col := 0, nextChunk := 0, unconfirmed := 0 })
  | _ => .pass .nothing

/-- READ_REQUEST stands: the record is kept and the frame pinned, while the frame is still held in
DRAINED or later (R163). -/
def readRequestStands : Stands := fun r s =>
  match r.aside with
  | .read k =>
    match s.ftc.find k.frame with
    | some f =>
      if f.state.hasDrained then (s.onRbe (· ++ [k])).onFtc (Ftc.pinUp k.frame) else s
    | none => s
  | _ => s

/-- A read record leaves the queue and its pin is dropped (R67, R69). -/
def Station.endRead (requester : Nat) (tag : Byte) (s : Station) : Station :=
  match s.rbe.find? (ReadRecord.isOf requester tag) with
  | some k =>
    (s.onRbe (List.filter fun r => !r.isOf requester tag)).onFtc (Ftc.pinDown k.frame)
  | none => s

/-- A READ burst in flight of a record loses its work (R139, R171). -/
def Burst.cancelRead (requester : Nat) (tag : Byte) (b : Burst) : Burst :=
  match b.work with
  | .read _ q t => if q = requester ∧ t = tag then { b with dropped := true } else b
  | _ => b

/-- READ_CANCEL stands at a MEMBER: the sender's record with the tag is removed, with its replies
(R170, R171). -/
def readCancelStands : Stands := fun r s =>
  match r.message with
  | some (.readCancel tag) =>
    if s.mbr.state = .member ∧ s.rbe.any (ReadRecord.isOf r.sender tag) = true then
      ((s.endRead r.sender tag).onTbi (Tbi.removeWaiting (TxMsg.isReplyOf r.sender tag))).onMar
        fun a => { a with burst := a.burst.map (Burst.cancelRead r.sender tag) }
    else s
  | _ => s

/-- READ_REPLY stands: at its sender it confirms a chunk, and the last chunk ends the record (R168). -/
def readReplyStands : Stands := fun r s =>
  match r.message with
  | some (.readReply b) =>
    if r.own then
      let s1 := s.onRbe (List.map fun k =>
        if k.isOf b.requester.toNat b.tag then { k with unconfirmed := k.unconfirmed - 1 } else k)
      if b.last then s1.endRead b.requester.toNat b.tag else s1
    else s
  | _ => s

/-- The record the readback engine serves (R130, R165). -/
def Station.servedRead (s : Station) : Option ReadRecord := s.rbe.find? fun r => !r.readOut

/-- The span of the next READ burst of a record (R165). -/
def ReadRecord.span (r : ReadRecord) : Span :=
  { buffer := r.buffer, line := r.rect.top + r.row, col := r.rect.left + r.col
    count := burstCount 64 r.rect.width r.col }

/-- The reply made of a burst's pixels (R166). -/
def Station.replyOf (s : Station) (r : ReadRecord) (ps : List Pixel) : ReplyBody :=
  { requester := BitVec.ofNat 8 r.requester, tag := r.tag, frame := r.frame
    chunk := BitVec.ofNat 24 r.nextChunk
    x := BitVec.ofNat 16 (s.originX + r.rect.left + r.col)
    y := BitVec.ofNat 16 (s.originY + r.rect.top + r.row)
    count := BitVec.ofNat 8 ps.length
    last := decide (r.rect.height ≤ r.row + 1 ∧ r.rect.width ≤ r.col + ps.length)
    pixels := ps }

/-- A record after a burst of `n` pixels (R166). -/
def ReadRecord.advance (n : Nat) (r : ReadRecord) : ReadRecord :=
  let r' := { r with nextChunk := r.nextChunk + 1, unconfirmed := r.unconfirmed + 1 }
  if r.col + n < r.rect.width then { r' with col := r.col + n } else { r' with row := r.row + 1, col := 0 }

/-- A READ burst completes: its reply is queued and its record moves on, unless the record was
removed (R139, R166). -/
def Station.readDone (sp : Span) (requester : Nat) (tag : Byte) (dropped : Bool) (s : Station) :
    Station :=
  if dropped then s
  else match s.rbe.find? (ReadRecord.isOf requester tag) with
    | some r =>
      let ps := Memory.readRun s.mem sp.buffer sp.line sp.col sp.count
      (s.onTbi (Tbi.push (.readReply (s.replyOf r ps)))).onRbe
        (List.map fun k => if k.isOf requester tag then k.advance sp.count else k)
    | none => s

end Sys2Proof.Machine
end

