-- ==== Sys2Proof/Machine/Intake.lean ====
section
/-! DEFINITION. Frame messages and writes: the decisions on OPEN, CLOSE, FILL and RUN, what they do when
they stand, and the apply engine (chapters 3 and 5, R78). -/

namespace Sys2Proof.Machine

/-! ## OPEN, CLOSE, DROP and READY -/

/-- The four conditions of an OPEN (R55). -/
def decideOpen : Decide := fun _ m s =>
  match m with
  | .openFrame n mode _ sources =>
    if (match s.ftc.lastOpened with | some k => n != k + 1 | none => false) then .refuse .frameState
    else if 2 ≤ s.ftc.records.countP (fun r => r.state.isWindow) then .refuse .frameAhead
    else if s.ftc.freeBuffer.isNone then .refuse .noBuffer
    else if (InitMode.ofCode mode).isNone ∨ sources = 0 ∨ sources.extractLsb' 0 32 ≠ 0 then
      .refuse .badField
    else .pass .nothing
  | _ => .pass .nothing

/-- OPEN stands: the last opened frame moves in every state, a MEMBER makes its record (R54, R56). -/
def openStands : Stands := fun r s =>
  match r.message with
  | some (.openFrame n mode colour sources) =>
    let s1 := s.onFtc fun t => { t with lastOpened := some n }
    if s.mbr.state = .member then
      match InitMode.ofCode mode with
      | some md => s1.openRecord n md colour sources
      | none => s1
    else s1
  | _ => s

/-- The conditions of a CLOSE (R59, R61). -/
def decideClose : Decide := fun sender m s =>
  match m with
  | .closeFrame n =>
    match s.ftc.find n with
    | none => if s.ftc.f0Passes n then .pass .nothing else .refuse .frameState
    | some r =>
      if r.state.isOpen = false then .refuse .frameState
      else if r.requiredSources.getLsbD sender = false then .refuse .sourceState
      else if r.closedSources.getLsbD sender = true then .refuse .sourceState
      else .pass .nothing
  | _ => .pass .nothing

/-- CLOSE stands at a MEMBER that holds the frame (R62). -/
def closeStands : Stands := fun r s =>
  match r.message with
  | some (.closeFrame n) => if s.mbr.state = .member then s.closeRecord n r.sender else s
  | _ => s

/-- DROP stands at a MEMBER (R63). -/
def dropStands : Stands := fun r s =>
  match r.message with
  | some (.drop p) => if s.mbr.state = .member then s.dropSource p.toNat else s
  | _ => s

/-- A required sender joins the ready set; the own READY moves a DRAINED record to READY (R77, R78). -/
def FrameRecord.hearReady (x : Nat) (own : Bool) (r : FrameRecord) : FrameRecord :=
  { r with
    state := if own = true ∧ r.state = .drained then .ready else r.state
    readyStations := if r.requiredStations.getLsbD x then r.readyStations ||| stationBit x
                     else r.readyStations }

/-- READY stands at a MEMBER that holds the frame (R77, R78). -/
def readyStands : Stands := fun r s =>
  match r.message with
  | some (.ready n) =>
    if s.mbr.state = .member then s.onFtc (Ftc.onRecord n (FrameRecord.hearReady r.sender r.own))
    else s
  | _ => s

/-! ## FILL and RUN (R93 to R101) -/

/-- The fields of a write are valid; `count` is a RUN's declared pixel count (R93). -/
def writeValid (h : WriteHead) (count : Option Nat) : Bool :=
  rectValid h.x h.y h.width h.height && (RasterOp.ofCode h.op).isSome && h.mask != 0 &&
  match count with
  | none => true
  | some n => decide (n = h.width.toNat * h.height.toNat ∧ n ≤ 256)

/-- The limits on entries and pixels for a frame: the oldest open frame's or the reservation's (R99). -/
def Station.limits (s : Station) (n : FrameNo) : Nat × Nat :=
  match s.ftc.oldest FrameState.isOpen with
  | some r => if r.frame = n then (32, 4096) else (24, 3072)
  | none => (24, 3072)

/-- The seven conditions of a write; `paint` gives what a clipped rectangle stores (R94). -/
def decideWrite (sender : Nat) (h : WriteHead) (count : Option Nat) (paint : Rect → Paint)
    (s : Station) : Decision :=
  if writeValid h count = false then .refuse .badField
  else match s.ftc.find h.frame with
    | none => if s.ftc.f0Passes h.frame then .pass .nothing else .refuse .frameState
    | some r =>
      if r.state.isOpen = false then .refuse .frameState
      else if r.requiredSources.getLsbD sender = false then .refuse .sourceState
      else if r.closedSources.getLsbD sender = true then .refuse .sourceState
      else match s.clip h.x h.y h.width h.height with
        | none => .pass .nothing
        | some c =>
          let (entries, pixels) := s.limits h.frame
          if entries < s.inq.length + 1 then .refuse .queueFull
          else if pixels < storedPixels s.inq + (paint c).stored then .refuse .pixelsFull
          else .pass (.apply
            { frame := h.frame, paint := paint c, op := (RasterOp.ofCode h.op).getD .replace
              mask := h.mask, rect := c, row := 0, col := 0 })

def decideFill : Decide := fun sender m s =>
  match m with
  | .fill h colour => decideWrite sender h none (fun _ => .fill colour) s
  | _ => .pass .nothing

def decideRun : Decide := fun sender m s =>
  match m with
  | .run h n ps => decideWrite sender h (some n.toNat) (fun c => .run (s.clipPixels h c ps)) s
  | _ => .pass .nothing

/-- A write kept: its record joins the tail of the apply queue and its frame's pending count rises
(R65, R101). -/
def Station.keepWrite (k : ApplyRecord) (s : Station) : Station :=
  (s.onInq (· ++ [k])).onFtc (Ftc.pendingUp k.frame)

/-- FILL stands (R101). -/
def fillStands : Stands := fun r s =>
  match r.aside with
  | .apply k => s.keepWrite k
  | _ => s

/-- RUN stands (R101). -/
def runStands : Stands := fun r s =>
  match r.aside with
  | .apply k => s.keepWrite k
  | _ => s

/-! ## The apply engine (R104, R105, R108) -/

/-- A record is eligible while its frame's record is in FILLING or SEALED (R104). -/
def Station.eligible (s : Station) (r : ApplyRecord) : Bool :=
  match s.ftc.find r.frame with
  | some f => f.state.isApplied
  | none => false

/-- The place in the queue of the oldest eligible record (R104). -/
def Station.oldestEligible (s : Station) : Option Nat := s.inq.findIdx? s.eligible

/-- A record after a burst of `n` pixels, none when the burst was its last (R105, R108). -/
def ApplyRecord.advance (n : Nat) (r : ApplyRecord) : Option ApplyRecord :=
  if r.col + n < r.rect.width then some { r with col := r.col + n }
  else if r.row + 1 < r.rect.height then some { r with row := r.row + 1, col := 0 }
  else none

/-- An APPLY burst of the record at a place of the queue completes: progress, or release and report
(R108); nothing when its work was dropped (R139). -/
def Station.applyDone (n slot : Nat) (dropped : Bool) (s : Station) : Station :=
  if dropped then s
  else match s.inq[slot]? with
    | some r =>
      match r.advance n with
      | some r' => s.onInq fun q => q.set slot r'
      | none => (s.onInq fun q => q.eraseIdx slot).pendingDown r.frame
    | none => s

end Sys2Proof.Machine
end

