-- ==== Sys2Proof/Machine/Arbiter.lean ====
section
/-! DEFINITION. The memory arbiter: requests, levels, grants and completions, with what each burst does to
the tile memory and hands to its requester (chapters 6, 7 and 8). -/

namespace Sys2Proof.Machine

/-! ## Bursts -/

def BurstWork.requester : BurstWork → Requester
  | .scan _ _ _ => .scan
  | .mref => .mref
  | .apply _ _ _ _ _ => .apply
  | .initFill _ _ | .initCopy _ _ => .init
  | .read _ _ _ => .read

/-- The buffers a burst targets (R51). -/
def BurstWork.targets : BurstWork → List Buf
  | .scan b _ _ => [b]
  | .mref => []
  | .apply sp _ _ _ _ => [sp.buffer]
  | .initFill sp _ => [sp.buffer]
  | .initCopy src sp => [src, sp.buffer]
  | .read sp _ _ => [sp.buffer]

/-- The requester of the burst in flight (R126). -/
def Mar.inFlight (a : Mar) : Option Requester := a.burst.map fun b => b.work.requester

/-- What a burst leaves in the tile memory at its completion (R107, R119, R120, R127). -/
def BurstWork.write (w : BurstWork) (m : Memory) : Memory :=
  match w with
  | .scan _ _ _ | .mref | .read _ _ _ => m
  | .apply sp op mask vs _ => Memory.combineRun op mask sp.buffer sp.line sp.col vs m
  | .initFill sp c => Memory.writeRun sp.buffer sp.line sp.col (List.replicate sp.count c) m
  | .initCopy src sp =>
    Memory.writeRun sp.buffer sp.line sp.col (Memory.readRun m src sp.line sp.col sp.count) m

/-- The span a burst writes, none for a burst that only reads. -/
def BurstWork.written : BurstWork → Option Span
  | .scan _ _ _ | .mref | .read _ _ _ => none
  | .apply sp _ _ _ _ | .initFill sp _ | .initCopy _ sp => some sp

/-- A burst cut short by the pin reset: each byte it was writing is old or new (R112, R114, R126). -/
def BurstWork.abandon (w : BurstWork) (choice : Nat) (m : Memory) : Memory :=
  match w.written with
  | none => m
  | some sp =>
    Memory.mixRun (w.write m) choice (pixelAddr sp.buffer sp.line sp.col) (4 * sp.count) m

/-! ## Requests (R106, R118, R128, R129, R130, R132) -/

/-- Whether a requester's request stands. -/
def Station.requests (s : Station) (r : Requester) : Bool :=
  s.mar.inFlight != some r &&
  match r with
  | .scan => s.scn.front.isSome && decide (s.scn.fifo.length < 8) && s.scn.fetch.isSome
  | .mref => decide (1 ≤ s.mar.debt)
  | .apply => s.oldestEligible.isSome
  | .init => match s.fie with
    | j :: _ => j.phase == .running
    | [] => false
  | .read => s.servedRead.isSome && decide (s.tbi.replies < 4)

/-! ## Levels and the candidate (R133, R134, R136) -/

/-- The profile's level of a requester (R133). -/
def profileLevel (p : BitVec 2) (r : Requester) : Nat :=
  if p = 0 then match r with
    | .scan => 0 | .mref => 1 | .apply => 2 | .init => 3 | .read => 4
  else if p = 1 then match r with
    | .scan => 0 | .mref => 2 | .apply => 1 | .init => 1 | .read => 3
  else if p = 2 then match r with
    | .scan => 0 | .mref => 2 | .apply => 3 | .init => 3 | .read => 1
  else match r with
    | .scan => 0 | .mref => 1 | .apply => 2 | .init => 2 | .read => 2

/-- Urgency: of a standing request alone (R134). -/
def Station.urgent (s : Station) (r : Requester) : Bool :=
  s.requests r &&
  match r with
  | .scan => decide (s.scn.fifo.length ≤ 2)
  | .mref => decide (6 ≤ s.mar.debt)
  | .apply | .init | .read => false

/-- The level of a requester at a decision, 0 for U and 1 more than the profile's otherwise (R133). -/
def Station.level (s : Station) (r : Requester) : Nat :=
  if s.urgent r then 0 else profileLevel s.straps.profile r + 1

/-- The better of a candidate so far and the next requester of the history (R136). -/
def Station.better (s : Station) (best : Option Requester) (r : Requester) : Option Requester :=
  if s.requests r then
    match best with
    | none => some r
    | some q => if s.level r < s.level q then some r else some q
  else best

/-- The candidate: highest level, then earliest in the grant history (R136). -/
def Station.candidate (s : Station) : Option Requester :=
  s.mar.history.foldl s.better none

/-! ## Grants (R137) -/

/-- The burst that a requester forms from its state at the grant (R104, R105, R119, R120, R137, R151,
R165); none when it has nothing to form one from. -/
def Station.formBurst (s : Station) (r : Requester) : Option BurstWork :=
  match r with
  | .scan =>
    match s.scn.front, s.scn.fetch with
    | some b, some p => some (.scan b p.line p.segment)
    | _, _ => none
  | .mref => some .mref
  | .apply =>
    match s.oldestEligible with
    | some i =>
      match s.inq[i]? with
      | some k =>
        match s.ftc.find k.frame with
        | some f =>
          let n := burstCount 64 k.rect.width k.col
          some (.apply { buffer := f.buffer, line := k.rect.top + k.row, col := k.rect.left + k.col
                         count := n } k.op k.mask (k.values n) i)
        | none => none
      | none => none
    | none => none
  | .init =>
    match s.fie with
    | j :: _ =>
      let sp : Span := { buffer := j.target, line := j.row, col := j.col
                         count := burstCount 256 s.width j.col }
      match j.work, j.source with
      | .fill c, _ => some (.initFill sp c)
      | .copy, some b => some (.initCopy b sp)
      | .copy, none => none
    | [] => none
  | .read =>
    match s.servedRead with
    | some k => some (.read k.span k.requester k.tag)
    | none => none

/-- A requester moved to the end of the grant history (R137). -/
def moveLast (r : Requester) (h : List Requester) : List Requester :=
  h.filter (fun q => q != r) ++ [r]

/-- The grant: history, burst in flight and marks (R51, R137). -/
def Station.grant (r : Requester) (s : Station) : Station :=
  match s.formBurst r with
  | some w =>
    (s.onMar fun a => { a with history := moveLast r a.history, burst := some ⟨w, false⟩ }).onFtc
      (Ftc.markAll w.targets)
  | none => s

/-- The grant decision at a completion (R135, R136). -/
def Station.decideGrant (s : Station) : Station :=
  match s.candidate with
  | some r => s.grant r
  | none => s

/-- A request reaches an idle arbiter and is granted at once, whatever its level (R135). -/
def Station.requestAtIdle (r : Requester) (s : Station) : Station :=
  if s.mar.burst.isNone ∧ s.requests r = true then s.grant r else s

/-! ## Completions (R108, R119, R121, R131, R138, R152) -/

/-- A SCAN burst's segment enters the FIFO, unless its refresh has ended or the panel has passed it
over (R152). -/
def Station.scanDone (b : Buf) (line segment : Nat) (dropped : Bool) (s : Station) : Station :=
  if dropped = false ∧ s.scn.fetch = some ⟨line, segment⟩ then
    s.onScn fun c => { c with
      fifo := c.fifo ++ [⟨⟨line, segment⟩, Memory.readRun s.mem b line (64 * segment) 64⟩]
      fetch := s.nextSegment ⟨line, segment⟩ }
  else s

/-- The debt falls by 1 (R131). -/
def Station.mrefDone (s : Station) : Station := s.onMar fun a => { a with debt := a.debt - 1 }

/-- A job after a burst of `n` pixels, none when no work is left (R119). -/
def InitJob.advance (width height n : Nat) (j : InitJob) : Option InitJob :=
  if j.col + n < width then some { j with col := j.col + n }
  else if j.row + 1 < height then some { j with row := j.row + 1, col := 0 }
  else none

/-- An INIT burst's progress, and the job's completion at its last burst (R119, R121, R139). -/
def Station.initBurstDone (n : Nat) (dropped : Bool) (s : Station) : Station :=
  if dropped then s
  else match s.fie with
    | j :: js =>
      match j.advance s.width s.height n with
      | some j' => s.onFie fun _ => j' :: js
      | none => s.completeJob
    | [] => s

/-- The requester acts on the completion of its burst (R138, R139). -/
def Station.requesterDone (b : Burst) (s : Station) : Station :=
  match b.work with
  | .scan buf line seg => s.scanDone buf line seg b.dropped
  | .mref => s.mrefDone
  | .apply sp _ _ _ slot => s.applyDone sp.count slot b.dropped
  | .initFill sp _ => s.initBurstDone sp.count b.dropped
  | .initCopy _ sp => s.initBurstDone sp.count b.dropped
  | .read sp q t => s.readDone sp q t b.dropped

/-- The burst ends at the arbiter and the frame table: its writes are in the memory, its marks clear
(R51, R127, R138). -/
def Station.endBurst (b : Burst) (s : Station) : Station :=
  ((s.onMem b.work.write).onMar fun a => { a with burst := none }).onFtc
    (Ftc.unmarkAll b.work.targets)

/-- The completion of the burst in flight, of a given requester (R138). -/
def Station.complete (r : Requester) (s : Station) : Station :=
  match s.mar.burst with
  | some b =>
    if b.work.requester = r then ((s.endBurst b).requesterDone b).decideGrant else s
  | none => s

/-- The memory refresh timer expires: the debt rises, or the overrun is counted; the timer restarts
(R131). -/
def Station.refreshExpiry (s : Station) : Station :=
  (if s.mar.debt < 8 then s.onMar fun a => { a with debt := a.debt + 1 }
   else s.count .refreshOverrun).onMar fun a => { a with timer := Config.memoryRefreshPeriod }

end Sys2Proof.Machine
end

