-- ==== Sys2Proof/Machine/Scan.lean ====
section
/-! DEFINITION. The scan engine and the panel port: pulses, the raster, segments and underflow, the pin
reset and the passage of time (chapter 8, R20, R131). -/

namespace Sys2Proof.Machine

/-! ## Pulses (R146 to R150) -/

/-- The scan engine's refresh ends: the FIFO is emptied and a SCAN burst in flight is of the ended
refresh (R149, step 1). -/
def Burst.endRefresh (b : Burst) : Burst :=
  match b.work with
  | .scan _ _ _ => { b with dropped := true }
  | _ => b

def Station.endRefresh (s : Station) : Station :=
  (s.onScn fun c => { c with fifo := [] }).onMar fun a =>
    { a with burst := a.burst.map Burst.endRefresh }

/-- The new refresh: its front, its fetch position and its blanking (R149, steps 3 and 4; R150). -/
def Station.beginRefresh (s : Station) : Station :=
  s.onScn fun c => { c with
    front := s.ftc.frontBuffer, fetch := some ⟨0, 0⟩, output := ⟨0, 0⟩, phase := .blanking
    panel := .blanking }

/-- A pulse is taken (R149). -/
def Station.pulse (s : Station) : Station := (s.endRefresh.ftcPulse.mbrPulse).beginRefresh

/-- A rising WSYNC edge: free-run ends, the sync watch restarts, the pulse is taken (R146, R148). -/
def Station.wsyncEdge (s : Station) : Station :=
  (s.onScn fun c => { c with freeRun := false, freeRunTimer := none, syncWatch := 0 }).pulse

/-- The sync watch reaches its top with the free-run flag clear: free-run is entered (R147). -/
def Station.syncLost (s : Station) : Station :=
  if s.scn.freeRun then s
  else ((s.onScn fun c => { c with freeRun := true, syncWatch := Config.syncWatchLimit
                                   freeRunTimer := some Config.nominalPeriod }).count .syncLost).pulse

/-- The free-run timer expires and restarts (R148); a stopped timer does not expire. -/
def Station.freeRunExpiry (s : Station) : Station :=
  if s.scn.freeRunTimer.isSome then
    (s.onScn fun c => { c with freeRunTimer := some Config.nominalPeriod }).pulse
  else s

/-- A pulse of a source can come: the sync watch brings none in free-run, a stopped timer none. -/
def Station.pulseDue (src : PulseSource) (s : Station) : Bool :=
  match src with
  | .wsyncEdge => true
  | .syncLost => !s.scn.freeRun
  | .freeRunExpiry => s.scn.freeRunTimer.isSome

/-- The event of a source. -/
def Station.pulseFrom (src : PulseSource) (s : Station) : Station :=
  match src with
  | .wsyncEdge => s.wsyncEdge
  | .syncLost => s.syncLost
  | .freeRunExpiry => s.freeRunExpiry

/-! ## What a pulse would bring about (log 7) -/

/-- The beacon watch on station x is one short of 24 (R39). -/
def Station.beaconWatchDue (x : Nat) (s : Station) : Bool :=
  decide (s.mbr.state = .member ∧ x ≠ s.number ∧ s.mbr.isMember x = true ∧ (s.mbr.entry x).watch = 23)

/-- The tick watch is one short of 3 under an unchanged duty holder (R40). -/
def Station.tickWatchDue (s : Station) : Bool :=
  decide (s.mbr.state = .member ∧ s.mbr.lowestMember = s.mbr.dutyHolder ∧ s.mbr.tickWatch = 2)

/-- The tick watch of a listener is one short of 6 (R25). -/
def Station.listenDue (s : Station) : Bool :=
  decide (s.mbr.state = .listening ∧ s.mbr.tickWatch = 5)

/-- The join wait is in its last pulse (R31). -/
def Station.joinWaitDue (s : Station) : Bool :=
  decide (s.mbr.state = .joining ∧ s.mbr.joinWait = 1)

/-- The next pulse flags the oldest uncommitted record as stalled (R88). -/
def Station.stallDue (s : Station) : Bool :=
  (Ftc.stallsAt s.stallLimit
    { s.ftc with records := s.ftc.records.map (FrameRecord.stallPulse s.stallLimit) }).isSome

/-- A pulse named by what it brings about, when it does. -/
def Station.namedPulse (due : Station → Bool) (src : PulseSource) (s : Station) : Station :=
  if due s && s.pulseDue src then s.pulseFrom src else s

/-! ## The raster (R144, R145, R153, R154, R155) -/

/-- The blanking interval ends: ACTIVE from line 0, segment 0 (R144). -/
def Station.blankingEnd (s : Station) : Station :=
  if s.scn.phase = .blanking then s.onScn fun c => { c with phase := .active, output := ⟨0, 0⟩ } else s

def Pixel.rgb (p : Pixel) : Rgb := ⟨p.r, p.g, p.b⟩

/-- 64 pixels of black (R145). -/
def blackSegment : List Rgb := List.replicate 64 ⟨0, 0, 0⟩

/-- The output position moves on, or the raster ends and the port puts out blanking (R144, R153, R156). -/
def Station.advanceOutput (s : Station) : Station :=
  match s.nextSegment s.scn.output with
  | some p => s.onScn fun c => { c with output := p }
  | none => s.onScn fun c => { c with phase := .ended, panel := .blanking }

/-- The fetch position moves past a segment the panel takes and the FIFO did not hold (R129, R154). -/
def Station.skipFetch (s : Station) : Station :=
  if s.scn.fetch = some s.scn.output then
    s.onScn fun c => { c with fetch := s.nextSegment s.scn.output }
  else s

def Station.showSegment (ps : List Rgb) (s : Station) : Station :=
  s.onScn fun c => { c with panel := .lines, taken := some ⟨c.output, ps⟩ }

/-- The panel takes the segment at the output position (R153, R154, R155). -/
def Station.segmentTaken (s : Station) : Station :=
  if s.scn.phase = .active then
    match s.scn.front, s.scn.fifo with
    | none, _ => ((s.showSegment blackSegment).skipFetch).advanceOutput
    | some _, g :: gs =>
      ((s.showSegment (g.pixels.map Pixel.rgb)).onScn fun c => { c with fifo := gs }).advanceOutput
    | some _, [] =>
      (((s.showSegment blackSegment).count .underflow).skipFetch).advanceOutput
  else s

/-! ## The pin reset (R20, R22, R126, R143, R186) -/

/-- RESET# is asserted: the bus is not driven and no slot asserted, the own message is cut off, the
burst in flight is abandoned, the panel is black (R20, R112, R126, R143). What else the scan engine and the
other blocks hold stays as it stood until the release (DESIGN CHOICE, log 38). -/
def Station.assertReset (s : Station) : Station :=
  let s1 := match s.mar.burst with
    | some b => { s with mem := b.work.abandon s.free s.mem, free := s.free + 1 }
    | none => s
  { s1 with
    resetAsserted := true
    tbi := { s.tbi with contending := false, sending := none, receiving := none }
    mar := { s.mar with burst := none }
    scn := { s.scn with panel := .black } }

/-- The straps of the 17 pin levels in the order of 11.5 (R186). -/
def Straps.ofPins (p : BitVec 17) : Straps :=
  { station := p.extractLsb' 12 5, column := p.extractLsb' 9 3, row := p.extractLsb' 6 3
    format := p.extractLsb' 4 2, profile := p.extractLsb' 2 2, stall := p.extractLsb' 0 2 }

/-- RESET# is released: the straps are latched and every block starts in its reset state (R20, R22,
R23, R52). A release without an assertion before it acts as both (log 18). -/
def Station.releaseReset (pins : BitVec 17) (busBusy : Bool) (s : Station) : Station :=
  let s1 := if s.resetAsserted then s else s.assertReset
  Station.released (Straps.ofPins pins) busBusy s1.mem s1.free

/-! ## Time (log 9) -/

/-- One tenth of a microsecond passes for the three timers (R131, R147, R148). -/
def Station.timersRun (s : Station) : Station :=
  (s.onScn fun c => { c with syncWatch := min (c.syncWatch + 1) Config.syncWatchLimit
                             freeRunTimer := c.freeRunTimer.map (· - 1) }).onMar
    fun a => { a with timer := a.timer - 1 }

/-- The scan engine's expiry that has come: the sync watch at its top with the flag clear, or the
free-run timer at 0. -/
def Station.pulseExpired (s : Station) : List Instr :=
  if s.scn.freeRun = false ∧ Config.syncWatchLimit ≤ s.scn.syncWatch then [.syncLost]
  else if s.scn.freeRunTimer = some 0 then [.freeRunExpiry] else []

def Station.refreshExpired (s : Station) : List Instr :=
  if s.mar.timer = 0 then [.memoryRefreshExpiry] else []

/-- The expiries that have come, in the order the free value gives when both have (log 10). -/
def Station.expiries (s : Station) : List Instr :=
  match s.pulseExpired, s.refreshExpired with
  | p, [] => p
  | [], m => m
  | p, m => if Config.memoryRefreshFirst s.free then m ++ p else p ++ m

/-- The idle step: time passes, and an expiry that comes joins the queue (log 9). -/
def State.timePasses (s : State) : State :=
  if s.resetAsserted then s
  else
    let t := s.toStation.timersRun
    { toStation := { t with free := t.free + 1 }, pending := s.pending ++ t.expiries }

end Sys2Proof.Machine
end

