-- ==== Sys2Proof/Machine/Messages.lean ====
section
/-! DEFINITION. The meanings of the bus commands: one definition for each message row of the table, for the
idle bus and for arbitration. -/

namespace Sys2Proof.Machine

/-- STATUS_QUERY stands: the target station takes it in every state (R14, R176). -/
def statusQueryStands : Stands := fun r s =>
  match r.message with
  | some (.statusQuery x clear) =>
    if x.toNat = s.number then s.takeQuery r.sender clear else s
  | _ => s

/-- STATUS_REPORT stands: at its sender the pending report flag is cleared (R175, R177). -/
def statusReportStands : Stands := fun r s => if r.own then s.setPendingReport false else s

/-- BUS_IDLE (R11). -/
def execBusIdle (s : State) : Host.Outcome State Fault Refusal := onLive (Station.onTbi Tbi.idle) s

/-- ARBITRATION (R2). -/
def execArbitration (others : List Byte) (s : State) : Host.Outcome State Fault Refusal :=
  onLive (Station.arbitrate others) s

/-- TICK (R36). -/
def execTick (e : MsgEvent) (s : State) : Host.Outcome State Fault Refusal :=
  onLive (Station.message .tick passes tickStands e) s

/-- SUSPECT (R42, R43). -/
def execSuspect (e : MsgEvent) (s : State) : Host.Outcome State Fault Refusal :=
  onLive (Station.message .suspect decideSuspect suspectStands e) s

/-- JOIN (R30, R32, R33). -/
def execJoin (e : MsgEvent) (s : State) : Host.Outcome State Fault Refusal :=
  onLive (Station.message .join decideJoin joinStands e) s

/-- LEAVE (R45). -/
def execLeave (e : MsgEvent) (s : State) : Host.Outcome State Fault Refusal :=
  onLive (Station.message .leave passes leaveStands e) s

/-- WALL_RESET (R47). -/
def execWallReset (e : MsgEvent) (s : State) : Host.Outcome State Fault Refusal :=
  onLive (Station.message .wallReset passes wallResetStands e) s

/-- ORDER_LEAVE (R44). -/
def execOrderLeave (e : MsgEvent) (s : State) : Host.Outcome State Fault Refusal :=
  onLive (Station.message .orderLeave passes orderLeaveStands e) s

/-- ORDER_REJOIN (R46). -/
def execOrderRejoin (e : MsgEvent) (s : State) : Host.Outcome State Fault Refusal :=
  onLive (Station.message .orderRejoin passes orderRejoinStands e) s

/-- DROP (R63). -/
def execDrop (e : MsgEvent) (s : State) : Host.Outcome State Fault Refusal :=
  onLive (Station.message .drop passes dropStands e) s

/-- READY (R77, R78). -/
def execReady (e : MsgEvent) (s : State) : Host.Outcome State Fault Refusal :=
  onLive (Station.message .ready passes readyStands e) s

/-- BEACON (R26, R27, R38). -/
def execBeacon (e : MsgEvent) (s : State) : Host.Outcome State Fault Refusal :=
  onLive (Station.message .beacon passes beaconStands e) s

/-- READ_REPLY (R168). -/
def execReadReply (e : MsgEvent) (s : State) : Host.Outcome State Fault Refusal :=
  onLive (Station.message .readReply passes readReplyStands e) s

/-- STATUS_REPORT (R177). -/
def execStatusReport (e : MsgEvent) (s : State) : Host.Outcome State Fault Refusal :=
  onLive (Station.message .statusReport passes statusReportStands e) s

/-- OPEN (R55, R56). -/
def execOpenFrame (e : MsgEvent) (s : State) : Host.Outcome State Fault Refusal :=
  onLive (Station.message .openFrame decideOpen openStands e) s

/-- CLOSE (R61, R62). -/
def execCloseFrame (e : MsgEvent) (s : State) : Host.Outcome State Fault Refusal :=
  onLive (Station.message .closeFrame decideClose closeStands e) s

/-- FILL (R94, R101). -/
def execFill (e : MsgEvent) (s : State) : Host.Outcome State Fault Refusal :=
  onLive (Station.message .fill decideFill fillStands e) s

/-- RUN (R94, R101). -/
def execRun (e : MsgEvent) (s : State) : Host.Outcome State Fault Refusal :=
  onLive (Station.message .run decideRun runStands e) s

/-- READ_REQUEST (R162, R163). -/
def execReadRequest (e : MsgEvent) (s : State) : Host.Outcome State Fault Refusal :=
  onLive (Station.message .readRequest decideReadRequest readRequestStands e) s

/-- READ_CANCEL (R170, R171). -/
def execReadCancel (e : MsgEvent) (s : State) : Host.Outcome State Fault Refusal :=
  onLive (Station.message .readCancel passes readCancelStands e) s

/-- STATUS_QUERY (R176). -/
def execStatusQuery (e : MsgEvent) (s : State) : Host.Outcome State Fault Refusal :=
  onLive (Station.message .statusQuery passes statusQueryStands e) s

/-- UNKNOWN_KIND (R4). -/
def execUnknownKind (code : Byte) (e : MsgEvent) (s : State) : Host.Outcome State Fault Refusal :=
  onLive (Station.unknownMessage code e) s

end Sys2Proof.Machine
end

