-- ==== Sys2Proof/Machine/Events.lean ====
section
/-! DEFINITION. The meanings of the commands that are no bus messages: the pin reset, pulses, the panel and
the tile memory. -/

namespace Sys2Proof.Machine

/-- RESET_ASSERT (R20); RESET# already asserted stays so. -/
def execResetAssert (s : State) : Host.Outcome State Fault Refusal := onLive Station.assertReset s

/-- RESET_RELEASE (R22). -/
def execResetRelease (pins : BitVec 17) (busBusy : Bool) (s : State) :
    Host.Outcome State Fault Refusal :=
  .next { s with toStation := s.toStation.releaseReset pins busBusy }

/-- WSYNC_EDGE (R146). -/
def execWsyncEdge (s : State) : Host.Outcome State Fault Refusal := onLive Station.wsyncEdge s

/-- SYNC_LOST (R147). -/
def execSyncLost (s : State) : Host.Outcome State Fault Refusal := onLive Station.syncLost s

/-- FREE_RUN_EXPIRY (R148). -/
def execFreeRunExpiry (s : State) : Host.Outcome State Fault Refusal := onLive Station.freeRunExpiry s

/-- BEACON_WATCH_EXPIRY (R39): the pulse that brings a beacon watch to 24. -/
def execBeaconWatchExpiry (src : PulseSource) (x : BitVec 5) (s : State) :
    Host.Outcome State Fault Refusal :=
  onLive (Station.namedPulse (Station.beaconWatchDue x.toNat) src) s

/-- TICK_WATCH_EXPIRY (R40): the pulse that brings the tick watch to 3. -/
def execTickWatchExpiry (src : PulseSource) (s : State) : Host.Outcome State Fault Refusal :=
  onLive (Station.namedPulse Station.tickWatchDue src) s

/-- LISTEN_TIMEOUT (R25): the pulse that brings a listener's tick watch to 6. -/
def execListenTimeout (src : PulseSource) (s : State) : Host.Outcome State Fault Refusal :=
  onLive (Station.namedPulse Station.listenDue src) s

/-- JOIN_WAIT_END (R31): the pulse that brings the join wait to 0. -/
def execJoinWaitEnd (src : PulseSource) (s : State) : Host.Outcome State Fault Refusal :=
  onLive (Station.namedPulse Station.joinWaitDue src) s

/-- STALL (R88): the pulse that flags the oldest uncommitted record. -/
def execStall (src : PulseSource) (s : State) : Host.Outcome State Fault Refusal :=
  onLive (Station.namedPulse Station.stallDue src) s

/-- BLANKING_END (R144). -/
def execBlankingEnd (s : State) : Host.Outcome State Fault Refusal := onLive Station.blankingEnd s

/-- SEGMENT_TAKEN (R153). -/
def execSegmentTaken (s : State) : Host.Outcome State Fault Refusal := onLive Station.segmentTaken s

/-- MEMORY_REFRESH_EXPIRY (R131). -/
def execMemoryRefreshExpiry (s : State) : Host.Outcome State Fault Refusal :=
  onLive Station.refreshExpiry s

/-- REQUEST_AT_IDLE_ARBITER (R135). -/
def execRequestAtIdleArbiter (r : Requester) (s : State) : Host.Outcome State Fault Refusal :=
  onLive (Station.requestAtIdle r) s

/-- SCAN_BURST_COMPLETE (R152). -/
def execScanBurstComplete (s : State) : Host.Outcome State Fault Refusal :=
  onLive (Station.complete .scan) s

/-- MREF_BURST_COMPLETE (R132). -/
def execMrefBurstComplete (s : State) : Host.Outcome State Fault Refusal :=
  onLive (Station.complete .mref) s

/-- APPLY_BURST_COMPLETE (R108). -/
def execApplyBurstComplete (s : State) : Host.Outcome State Fault Refusal :=
  onLive (Station.complete .apply) s

/-- INIT_BURST_COMPLETE (R119). -/
def execInitBurstComplete (s : State) : Host.Outcome State Fault Refusal :=
  onLive (Station.complete .init) s

/-- READ_BURST_COMPLETE (R166). -/
def execReadBurstComplete (s : State) : Host.Outcome State Fault Refusal :=
  onLive (Station.complete .read) s

end Sys2Proof.Machine
end

