-- ==== Sys2Proof/Machine/Dispatch.lean ====
section
/-! DEFINITION. exec: one arm for each constructor of Instr, each one call of its meaning. -/

namespace Sys2Proof.Machine

def exec (i : Instr) (s : State) : Host.Outcome State Fault Refusal :=
  match i with
  | .resetAssert => Sys2Proof.Machine.execResetAssert s
  | .resetRelease pins busy => Sys2Proof.Machine.execResetRelease pins busy s
  | .busIdle => Sys2Proof.Machine.execBusIdle s
  | .arbitration others => Sys2Proof.Machine.execArbitration others s
  | .tick e => Sys2Proof.Machine.execTick e s
  | .suspect e => Sys2Proof.Machine.execSuspect e s
  | .join e => Sys2Proof.Machine.execJoin e s
  | .leave e => Sys2Proof.Machine.execLeave e s
  | .wallReset e => Sys2Proof.Machine.execWallReset e s
  | .orderLeave e => Sys2Proof.Machine.execOrderLeave e s
  | .orderRejoin e => Sys2Proof.Machine.execOrderRejoin e s
  | .drop e => Sys2Proof.Machine.execDrop e s
  | .ready e => Sys2Proof.Machine.execReady e s
  | .beacon e => Sys2Proof.Machine.execBeacon e s
  | .readReply e => Sys2Proof.Machine.execReadReply e s
  | .statusReport e => Sys2Proof.Machine.execStatusReport e s
  | .openFrame e => Sys2Proof.Machine.execOpenFrame e s
  | .closeFrame e => Sys2Proof.Machine.execCloseFrame e s
  | .fill e => Sys2Proof.Machine.execFill e s
  | .run e => Sys2Proof.Machine.execRun e s
  | .readRequest e => Sys2Proof.Machine.execReadRequest e s
  | .readCancel e => Sys2Proof.Machine.execReadCancel e s
  | .statusQuery e => Sys2Proof.Machine.execStatusQuery e s
  | .wsyncEdge => Sys2Proof.Machine.execWsyncEdge s
  | .syncLost => Sys2Proof.Machine.execSyncLost s
  | .freeRunExpiry => Sys2Proof.Machine.execFreeRunExpiry s
  | .beaconWatchExpiry src x => Sys2Proof.Machine.execBeaconWatchExpiry src x s
  | .tickWatchExpiry src => Sys2Proof.Machine.execTickWatchExpiry src s
  | .listenTimeout src => Sys2Proof.Machine.execListenTimeout src s
  | .joinWaitEnd src => Sys2Proof.Machine.execJoinWaitEnd src s
  | .stall src => Sys2Proof.Machine.execStall src s
  | .blankingEnd => Sys2Proof.Machine.execBlankingEnd s
  | .segmentTaken => Sys2Proof.Machine.execSegmentTaken s
  | .memoryRefreshExpiry => Sys2Proof.Machine.execMemoryRefreshExpiry s
  | .requestAtIdleArbiter r => Sys2Proof.Machine.execRequestAtIdleArbiter r s
  | .scanBurstComplete => Sys2Proof.Machine.execScanBurstComplete s
  | .mrefBurstComplete => Sys2Proof.Machine.execMrefBurstComplete s
  | .applyBurstComplete => Sys2Proof.Machine.execApplyBurstComplete s
  | .initBurstComplete => Sys2Proof.Machine.execInitBurstComplete s
  | .readBurstComplete => Sys2Proof.Machine.execReadBurstComplete s
  | .unknownKind code e => Sys2Proof.Machine.execUnknownKind code e s

end Sys2Proof.Machine
end

