-- ==== Sys2Proof/Machine/Step.lean ====
section
/-! DEFINITION. One step: the command at the front of the queue, or time passing on an empty one. -/

namespace Sys2Proof.Machine

/-- The command at the front of the queue runs with the queue's rest; on an empty queue a tenth of a
microsecond passes (DESIGN CHOICE, log 9). -/
def step (s : State) : Host.Outcome State Fault Refusal :=
  match s.pending with
  | [] => .next s.timePasses
  | c :: rest => exec c { s with pending := rest }

/-- The command a table word spells, put at the front of the queue; no word spells one (log 33). -/
def State.withFetchWord (s : State) (nbits w : Nat) : State :=
  match decodeTableWord nbits w with
  | some c => { s with pending := c :: s.pending }
  | none => s

end Sys2Proof.Machine
end

