-- ==== Sys2Proof/Safety.lean ====
section
/-! DEFINITION. The words the statements are written in: frames by block, how a message reaches the station,
and the invariants that every step keeps. -/

/-- No slot asserted. -/
def Sys2Proof.Slots.clear : Sys2Proof.Slots := { refusals := 0, damage := false }

/-- A message that a sender can drive: its party may send the kind, its body fits a header, and its counts
agree with its lists (R4, R184). -/
def Sys2Proof.Message.sendable (p : Nat) (m : Sys2Proof.Message) : Prop :=
  m.kind.senderFits p = true ∧ m.body.length ≤ 65535 ∧
  match m with
  | .readReply b => b.pixels.length = b.count.toNat
  | .statusReport _ record => Sys2Proof.reportLengthFits record = true
  | .openFrame _ mode colour _ => (colour.isSome = true ↔ mode = 0)
  | .run _ count ps => ps.length = count.toNat ∧ ps.length ≤ 16380
  | _ => True

/-- The fields that FILL and RUN share lie in the ranges of R93's table. -/
def Sys2Proof.WriteHead.inRange (w : Sys2Proof.WriteHead) : Prop :=
  w.width ≠ 0 ∧ w.height ≠ 0 ∧ w.x.toNat + w.width.toNat ≤ 65536 ∧
    w.y.toNat + w.height.toNat ≤ 65536 ∧ w.op.toNat ≤ 3 ∧ w.mask ≠ 0

/-- The declared pixel count of a RUN is one that R93's table allows. -/
def Sys2Proof.WriteHead.countInRange (w : Sys2Proof.WriteHead) (count : BitVec 16) : Prop :=
  count.toNat = w.width.toNat * w.height.toNat ∧ count.toNat ≤ 256

namespace Sys2Proof.Machine

/-! ## Frames -/

/-- The parts of a station that a frame speaks of: one for each field of Station. -/
inductive Block where
  | reset | straps | tbi | mbr | ftc | inq | fie | rbe | mar | scn | stu | mem | free
  deriving DecidableEq, Repr

/-- A block is the same in two stations; the memory when every byte reads alike. -/
def Block.same (b : Block) (s t : Station) : Prop :=
  match b with
  | .reset => t.resetAsserted = s.resetAsserted
  | .straps => t.straps = s.straps
  | .tbi => t.tbi = s.tbi
  | .mbr => t.mbr = s.mbr
  | .ftc => t.ftc = s.ftc
  | .inq => t.inq = s.inq
  | .fie => t.fie = s.fie
  | .rbe => t.rbe = s.rbe
  | .mar => t.mar = s.mar
  | .scn => t.scn = s.scn
  | .stu => t.stu = s.stu
  | .mem => ∀ a, Memory.read t.mem a = Memory.read s.mem a
  | .free => t.free = s.free

/-- Every block but the listed ones is the same, and so is the queue of commands. -/
def SameBut (changed : List Block) (s t : State) : Prop :=
  t.pending = s.pending ∧ ∀ b, b ∉ changed → b.same s.toStation t.toStation

/-! ## Commands by kind and by source -/

/-- The command of a message event of a kind. -/
def commandOf : Kind → MsgEvent → Instr
  | .tick => .tick
  | .suspect => .suspect
  | .join => .join
  | .leave => .leave
  | .wallReset => .wallReset
  | .orderLeave => .orderLeave
  | .orderRejoin => .orderRejoin
  | .drop => .drop
  | .ready => .ready
  | .beacon => .beacon
  | .readReply => .readReply
  | .statusReport => .statusReport
  | .openFrame => .openFrame
  | .closeFrame => .closeFrame
  | .fill => .fill
  | .run => .run
  | .readRequest => .readRequest
  | .readCancel => .readCancel
  | .statusQuery => .statusQuery

/-- The command of a pulse from a source. -/
def pulseCommand : PulseSource → Instr
  | .wsyncEdge => .wsyncEdge
  | .syncLost => .syncLost
  | .freeRunExpiry => .freeRunExpiry

/-! ## How a message reaches the station -/

/-- The station takes events, is in step with the bus and has no message in hand. -/
def Station.takes (s : Station) : Prop :=
  s.resetAsserted = false ∧ s.tbi.inStep = true ∧ s.tbi.receiving = none

/-- The station hears `h` undamaged as another party's message `m` of kind `k`. -/
def Station.hearsOther (s : Station) (k : Kind) (h : Heard) (m : Message) : Prop :=
  s.takes ∧ s.tbi.sending = none ∧ readMessage k h = some m

/-- The station hears `h` undamaged as its own message `m` of kind `k`, sent from the entry `e`. -/
def Station.hearsOwn (s : Station) (k : Kind) (h : Heard) (m : Message) (e : TxEntry) : Prop :=
  s.takes ∧ s.tbi.sending.isSome = true ∧ s.tbi.inTransmission = some e ∧ e.msg.kind = k ∧
    readMessage k h = some m

/-- A message heard whole by command `c` ends the transmission of the entry `e` as void. `marked`: this
station found its own message damaged, whatever kind of message the bus then showed (R3, R5); otherwise it
heard it undamaged. `damage`: the damage slot is set, by this station or another party (R8, R18). -/
def Station.ownVoids (s : Station) (c : Instr) (e : TxEntry) (marked damage : Bool) : Prop :=
  s.takes ∧ s.tbi.sending.isSome = true ∧ s.tbi.inTransmission = some e ∧
  ∃ (h : Heard) (v : Slots), damage = (v.damage || marked) ∧ (v.refusals ≠ 0 ∨ damage = true) ∧
    ((marked = false ∧ c = commandOf e.msg.kind (.whole h v) ∧
        ∃ m, readMessage e.msg.kind h = some m) ∨
      (marked = true ∧ ∃ k, c = commandOf k (.whole h v) ∧ readMessage k h = none) ∨
      (marked = true ∧ ∃ code, c = .unknownKind code (.whole h v) ∧ isUnknownKind code h.word = true))

/-- Another party's message of kind `k` is in hand, passed with something set aside for it (R7). -/
def Station.hasSetAside (s : Station) (k : Kind) (a : SetAside) : Prop :=
  s.resetAsserted = false ∧ ∃ r, s.tbi.receiving = some r ∧ r.code = k.code ∧ r.own = false ∧
    r.refused = false ∧ r.message.isSome = true ∧ r.aside = a

/-- The bus interface after another party's message has gone by. -/
def Tbi.passedBy (t : Tbi) : Tbi := { t with contending := false }

/-- The entry that a held TICK becomes at a verdict (R13). -/
def Tbi.heldEntry (t : Tbi) : List TxEntry :=
  match t.heldTick with
  | some r => [⟨.tick r, .waiting⟩]
  | none => []

/-- The bus interface after the own message has stood (R13, R16). -/
def Tbi.ownPassed (t : Tbi) : Tbi :=
  { t with
    queue := t.queue.filter (fun e => e.status != .sending) ++ t.heldEntry
    heldTick := none, voidStreak := 0, sending := none, contending := false }

/-- The status unit once an event is counted (R175). -/
def Stu.counted (c : Counter) (u : Stu) : Stu :=
  { u with counters := u.counters.set c (saturate (u.counters.get c)) }

/-- The status unit after an own void: DAMAGE_MARKED where this station marked it, and OWN_VOIDED (R5, R17). -/
def Stu.ownVoided (marked : Bool) (u : Stu) : Stu :=
  Stu.counted .ownVoided (if marked then Stu.counted .damageMarked u else u)

/-- A STATUS_REPORT entry whose clear flag is set (R177). -/
def TxMsg.clears : TxMsg → Bool
  | .statusReport _ clear => clear
  | _ => false

/-- A message refused at the check code: the slot asserted, the reason counted, nothing set aside and
nothing else changed (R6). -/
def Refuses (reason : Counter) (k : Kind) (h : Heard) (m : Message) (s t : State) : Prop :=
  t.tbi = { s.tbi with
    contending := false
    receiving := some { code := k.code, sender := wordParty h.word, message := some m, own := false
                        refused := true, aside := .nothing } } ∧
  t.stu = Stu.counted reason s.stu ∧
  SameBut [.tbi, .stu] s t

/-- A message passed at the check code with something, or nothing, set aside and nothing counted (R6,
R7). -/
def Passes (aside : SetAside) (k : Kind) (h : Heard) (m : Message) (s t : State) : Prop :=
  t.tbi = { s.tbi with
    contending := false
    receiving := some { code := k.code, sender := wordParty h.word, message := some m, own := false
                        refused := false, aside } } ∧
  SameBut [.tbi] s t

/-- The tile in a tile byte: column in bits 7 to 5, row in bits 4 to 2 (11.3). -/
def tileBits (b : Byte) : Tile := ⟨b.extractLsb' 5 3, b.extractLsb' 2 3⟩

/-- A MEMBER entry with a tile and a watch of 0. -/
def RosterEntry.listed (tile : Option Tile) : RosterEntry := { member := true, tile, watch := 0 }

/-- The grounds on which a MEMBER refuses the JOIN of station x with a tile byte: its own number, the
known tile of another MEMBER entry, or a differing format (R32). -/
def Station.refusesJoin (s : Station) (x : Nat) (b : Byte) : Prop :=
  x = s.number ∨
  (∃ (i : Nat) (e : RosterEntry), s.mbr.roster[i]? = some e ∧ e.member = true ∧ i ≠ x ∧
    e.tile = some (tileBits b)) ∨
  b.extractLsb' 0 2 ≠ s.straps.format

/-- A record without station x in its sets (R57). -/
def FrameRecord.without (x : Nat) (r : FrameRecord) : FrameRecord :=
  { r with requiredStations := r.requiredStations &&& ~~~(1#32 <<< x)
           readyStations := r.readyStations &&& ~~~(1#32 <<< x) }

/-- The membership unit of a station turned away (R29). -/
def Mbr.turnedAway (m : Mbr) : Mbr :=
  { m with state := .rejected, roster := List.replicate 32 RosterEntry.absent, tickWatch := 0
           retryCount := 0, joinWait := 0 }

/-- The record of a frame commits at an accepted TICK: it is the oldest READY one, its barrier is
complete, its predecessor is not held or has committed, and no record is COMMITTED (R79, R80). -/
def Ftc.commits (f : Ftc) (x : FrameRecord) : Prop :=
  (f.records.find? fun y => y.state == .ready) = some x ∧
    (∀ i, x.requiredStations.getLsbD i = true → x.readyStations.getLsbD i = true) ∧
    (∀ p, f.find (x.frame - 1) = some p →
      p.state = .committed ∨ p.state = .shown ∨ p.state = .retiring) ∧
    ∀ y ∈ f.records, y.state ≠ .committed

/-- The READY queued where frame n enters DRAINED: when its predecessor is not held or has committed and no
READY of n is queued (R76). -/
def Station.readyEntry (s : Station) (n : FrameNo) : List TxEntry :=
  if s.ftc.predecessorCommitted n = true ∧ s.tbi.queue.all (fun e => e.msg != .ready n) = true then
    [⟨.ready n, .waiting⟩]
  else []

/-- The COPY job at the head of the init list waits for frame n to drain (R116). -/
def Station.copyWaits (s : Station) (n : FrameNo) : Bool :=
  match s.fie with
  | j :: _ => j.work == .copy && j.phase == .waiting && j.frame == n + 1
  | [] => false

/-- An init list once the copy at its head has begun from a buffer (R117). -/
def copyBegun (b : Buf) : List InitJob → List InitJob
  | j :: js => { j with source := some b, phase := .running } :: js
  | [] => []

/-- The raster op's code in the op and mask byte (11.3). -/
def RasterOp.code : RasterOp → Nat
  | .replace => 0 | .and => 1 | .or => 2 | .xor => 3

/-- The limits on entries and on pixels in use for a write of frame n: those of the oldest open frame, or
those of any other (R99). -/
def Station.writeLimits (s : Station) (n : FrameNo) : Nat × Nat :=
  if (s.ftc.records.find? fun r => r.state == .init || r.state == .filling).map (fun r => r.frame) =
      some n then (32, 4096)
  else (24, 3072)

/-- On an empty list, the COPY job of an OPEN(N) would begin at once: the predecessor is held, DRAINED or
later (R116, R117). -/
def Station.copyStarts (s : Station) (n : FrameNo) : Bool :=
  s.fie.isEmpty && (s.ftc.find (n - 1)).any fun p =>
    p.state != .init && p.state != .filling && p.state != .sealed

/-- The buffer that the completion of a burst takes from its RETIRING record: the burst is the last of the
COPY at the head of the list, and the record's one pin is that copy's (R69, R119, R121). -/
def Station.copyEndDrops (s : Station) (b : Burst) : Option Buf :=
  match s.fie, b.work.written with
  | j :: _, some sp =>
    if b.work.requester = .init ∧ b.dropped = false ∧ j.work = .copy ∧
        s.width ≤ j.col + sp.count ∧ s.height ≤ j.row + 1 then
      (s.ftc.find (j.frame - 1)).bind fun p =>
        if p.state = .retiring ∧ p.pins ≤ 1 then some p.buffer else none
    else none
  | _, _ => none

/-- A job as it is made (R114). -/
def InitJob.made (n : FrameNo) (work : InitWork) (target : Buf) (source : Option Buf)
    (phase : InitPhase) : InitJob :=
  { frame := n, work, target, source, phase, row := 0, col := 0 }

/-- The conditions that an OPEN(N) meets at a MEMBER, with the lowest FREE buffer and no record of N
held (R55, R56). -/
structure Station.MayOpen (s : Station) (n : FrameNo) (mode : Byte) (src : PartySet) (b : Buf) : Prop where
  member : s.mbr.state = .member
  next : ∀ l, s.ftc.lastOpened = some l → n = l + 1
  window : s.ftc.records.countP (fun r => r.state != .shown && r.state != .retiring) < 2
  free : (s.ftc.buffers.get b).state = .free
  lowest : ∀ c : Buf, (s.ftc.buffers.get c).state = .free → b.index ≤ c.index
  mode : mode.toNat ≤ 2
  sources : src ≠ 0 ∧ ∀ i < 32, src.getLsbD i = false
  new : s.ftc.find n = none

/-- A roster holds a clash with this station: its own entry is MEMBER, or a MEMBER entry has its tile
(R29). -/
def Station.clashes (s : Station) (roster : List RosterEntry) : Prop :=
  ∃ (i : Nat) (e : RosterEntry), roster[i]? = some e ∧ e.member = true ∧
    (i = s.number ∨ e.tile = some s.tile)

/-- The buffer of the record SHOWN, if one is (R50). -/
def Station.shownBuffer (s : Station) : Option Buf :=
  (s.ftc.records.find? fun r => r.state == .shown).map fun r => r.buffer

/-- A buffer after its release (R51). -/
def BufDesc.released (d : BufDesc) : BufDesc :=
  { state := if d.inFlight then .releasing else .free, frame := none, inFlight := d.inFlight }

/-- What a withdrawal to a station state leaves of every block (R21, R48, R70, R71, R90, R113, R125, R140,
R158, R174, R181). -/
structure Withdrawn (dest : StationState) (s t : State) : Prop where
  tbi : t.tbi = { queue := [], heldTick := none, voidStreak := 0, contending := false
                  sending := none, receiving := none, inStep := true }
  mbr : t.mbr = { state := dest, roster := List.replicate 32 RosterEntry.absent, tickWatch := 0
                  retryCount := 0, joinWait := 0, dutyHolder := none, holderRemoved := false
                  suspectOrigin := none }
  frames : t.ftc.records = [] ∧ t.ftc.lastOpened = none ∧ t.ftc.f0 = none ∧
    t.ftc.refresh = s.ftc.refresh
  buffers : ∀ b, t.ftc.buffers.get b =
    if s.shownBuffer = some b then
      { s.ftc.buffers.get b with state := .heldImage, frame := none }
    else if (s.ftc.buffers.get b).state = .bound ∨
        ((s.ftc.buffers.get b).state = .heldImage ∧ s.shownBuffer.isSome = true) then
      (s.ftc.buffers.get b).released
    else s.ftc.buffers.get b
  work : t.inq = [] ∧ t.fie = [] ∧ t.rbe = []
  arbiter : t.mar = { s.mar with
    burst := s.mar.burst.map fun b =>
      { b with dropped := b.dropped || (b.work.requester != .scan && b.work.requester != .mref) } }
  counted : t.stu = { counters := (Stu.counted .withdrawals s.stu).counters, pendingReport := false }
  rest : SameBut [.tbi, .mbr, .ftc, .inq, .fie, .rbe, .mar, .stu] s t

/-! ## Pulses and reads -/

/-- Frame n goes to RETIRING (R68). -/
def FrameRecord.retiredAs (n : FrameNo) (x : FrameRecord) : FrameRecord :=
  if x.frame = n then { x with state := .retiring } else x

/-- Frame n is SHOWN (R83). -/
def FrameRecord.shownAs (n : FrameNo) (x : FrameRecord) : FrameRecord :=
  if x.frame = n then { x with state := .shown, showRefresh := none } else x

/-- The stall count of a record after a pulse (R87). -/
def FrameRecord.watched (limit : Nat) (x : FrameRecord) : FrameRecord :=
  if x.state.isUncommitted = true ∧ x.stallCount < limit then
    { x with stallCount := x.stallCount + 1 } else x

/-- Frame n is flagged as stalled (R88). -/
def FrameRecord.flaggedAs (n : FrameNo) (x : FrameRecord) : FrameRecord :=
  if x.frame = n then { x with stalled := true } else x

/-- Another member x with a beacon watch at 24 or above (R41). -/
def Station.overdueAt (s : Station) (x : Nat) : Prop :=
  x ≠ s.number ∧ s.mbr.isMember x = true ∧ 24 ≤ (s.mbr.entry x).watch

/-- A selector resolves to frame n: by number, or CURRENT to the COMMITTED frame, else to the SHOWN one
(R161). -/
def Ftc.selects (f : Ftc) (selector : Option FrameNo) (n : FrameNo) : Prop :=
  selector = some n ∨ (selector = none ∧
    ((∃ r, (f.records.find? fun x => x.state == .committed) = some r ∧ r.frame = n) ∨
      ((∀ x ∈ f.records, x.state ≠ .committed) ∧
        ∃ r, (f.records.find? fun x => x.state == .shown) = some r ∧ r.frame = n)))

/-- A pin of frame n is dropped: the count falls by 1, and a RETIRING record without pins is dropped and
its buffer released (R67, R69). -/
def PinDropped (n : FrameNo) (s t : Station) : Prop :=
  (∀ r, s.ftc.find n = some r → r.state = .retiring → r.pins ≤ 1 →
    t.ftc.records = s.ftc.records.filter (fun x => x.frame != n) ∧
    t.ftc.buffers.get r.buffer = (s.ftc.buffers.get r.buffer).released ∧
    ∀ b, b ≠ r.buffer → t.ftc.buffers.get b = s.ftc.buffers.get b) ∧
  ((∀ r, s.ftc.find n = some r → r.state ≠ .retiring ∨ 1 < r.pins) →
    t.ftc.buffers = s.ftc.buffers ∧
    t.ftc.records = s.ftc.records.map fun x =>
      if x.frame = n then { x with pins := x.pins - 1 } else x) ∧
  t.ftc = { s.ftc with records := t.ftc.records, buffers := t.ftc.buffers }

/-! ## The report record -/

/-- A number in n bytes, most significant first. -/
def bigEndian : Nat → Nat → List Byte
  | 0, _ => []
  | n + 1, v => bigEndian n (v / 256) ++ [BitVec.ofNat 8 v]

/-- A presence byte and a frame number, both 0 when there is none (R185). -/
def presenceFields : Option FrameNo → List (Nat × Nat)
  | none => [(1, 0), (2, 0)]
  | some n => [(1, 1), (2, n.toNat)]

/-- A buffer in the record: state, then the frame number when BOUND (11.4). -/
def BufDesc.reportFields (d : BufDesc) : List (Nat × Nat) :=
  [(1, [BufState.free, .bound, .heldImage, .releasing].idxOf d.state),
   (2, if d.state = .bound then (d.frame.getD 0).toNat else 0)]

/-- A frame record in the record: number, state, stalled flag, missing stations, missing sources (11.4). -/
def FrameRecord.reportFields (r : FrameRecord) : List (Nat × Nat) :=
  [(2, r.frame.toNat),
   (1, [FrameState.init, .filling, .sealed, .drained, .ready, .committed, .shown, .retiring].idxOf r.state),
   (1, r.stalled.toNat), (4, (r.requiredStations &&& ~~~r.readyStations).toNat),
   (4, (r.requiredSources &&& ~~~r.closedSources).toNat / 2 ^ 32)]

/-- A read record in the record: requester, tag, frame, unconfirmed replies (11.4). -/
def ReadRecord.reportFields (r : ReadRecord) : List (Nat × Nat) :=
  [(1, r.requester), (1, r.tag.toNat), (2, r.frame.toNat), (1, r.unconfirmed)]

/-- The fields of the report record in the order of the table of 11.4, each as its width in bytes and its
value, taken from the blocks as they stand (R178, R185). -/
def Station.reportFields (s : Station) : List (Nat × Nat) :=
  [(1, [StationState.listening, .joining, .member, .idleOut, .rejected].idxOf s.mbr.state),
   (1, s.number), (1, 32 * s.tile.column.toNat + 4 * s.tile.row.toNat + s.straps.format.toNat),
   (1, s.straps.profile.toNat), (2, s.ftc.refresh.toNat), (1, s.scn.freeRun.toNat),
   (4, s.mbr.memberSet.toNat), (1, s.mbr.dutyHolder.getD 255), (1, s.tbi.voidStreak)] ++
  presenceFields s.ftc.lastOpened ++ presenceFields s.ftc.f0 ++
  s.ftc.buffers.b0.reportFields ++ s.ftc.buffers.b1.reportFields ++ s.ftc.buffers.b2.reportFields ++
  (1, s.ftc.records.length) :: s.ftc.records.flatMap FrameRecord.reportFields ++
  [(1, s.inq.length), (2, (s.inq.map fun r => r.paint.stored).sum), (1, s.rbe.length)] ++
  s.rbe.flatMap ReadRecord.reportFields ++
  [Counter.frameState, .sourceState, .queueFull, .pixelsFull, .noBuffer, .frameAhead, .badField,
   .readQueueFull, .joinConflict, .suspectDenied, .underflow, .lateShow, .countSlip, .syncLost,
   .refreshOverrun, .damageMarked, .ownVoided, .stall, .seedMissing, .withdrawals,
   .tickStarved].map fun c => (2, s.stu.counters.get c)

/-! ## Invariants -/

/-- The job at the head of the init list is active and no other is; a COPY job that is RUNNING has its
source buffer (R114, R116, R117). -/
def Station.InitListFits (s : Station) : Prop :=
  (∀ j rest, s.fie = j :: rest → j.phase ≠ .queued ∧ ∀ k ∈ rest, k.phase = .queued) ∧
    ∀ j ∈ s.fie, j.work = .copy → j.phase = .running → j.source.isSome = true

/-- What is set aside counts as in use (R7, R100). -/
def Station.asideEntries (s : Station) : Nat :=
  match s.tbi.receiving with
  | some r => match r.aside with | .apply _ => 1 | _ => 0
  | none => 0

def Station.asidePixels (s : Station) : Nat :=
  match s.tbi.receiving with
  | some r => match r.aside with | .apply k => k.paint.stored | _ => 0
  | none => 0

def Station.asideReads (s : Station) : Nat :=
  match s.tbi.receiving with
  | some r => match r.aside with | .read _ => 1 | _ => 0
  | none => 0

/-- A SCAN burst of the current refresh is in flight. -/
def Station.scanUnderWay (s : Station) : Bool :=
  match s.mar.burst with
  | some b => b.work.requester == .scan && !b.dropped
  | none => false

/-- The counts stay in their ranges (R18, R31, R39, R99, R129, R131, R159). -/
structure Station.Bounded (s : Station) : Prop where
  entries : s.inq.length + s.asideEntries ≤ 32
  pixels : storedPixels s.inq + s.asidePixels ≤ 4096
  reads : s.rbe.length + s.asideReads ≤ 4
  debt : s.mar.debt ≤ 8
  fifo : s.scn.fifo.length + (if s.scanUnderWay then 1 else 0) ≤ 8
  streak : s.tbi.voidStreak < 32
  retries : s.mbr.retryCount < 16
  wait : s.mbr.joinWait ≤ 4
  watches : ∀ e ∈ s.mbr.roster, e.watch ≤ 24
  stations : s.mbr.roster.length = 32

/-- Every requester stands once in the grant history (R126). -/
def Station.HistoryFits (s : Station) : Prop :=
  s.mar.history.Nodup ∧ ∀ r : Requester, r ∈ s.mar.history

/-- While RESET# is released, a buffer's in-flight mark is set exactly while the burst in flight targets
it, and a RELEASING buffer's mark is set (R50, R51). -/
def Station.MarksFit (s : Station) : Prop :=
  s.resetAsserted = false → ∀ b : Buf,
    ((s.ftc.buffers.get b).inFlight = true ↔ ∃ x, s.mar.burst = some x ∧ b ∈ x.work.targets) ∧
    ((s.ftc.buffers.get b).state = .releasing → (s.ftc.buffers.get b).inFlight = true)

/-- A station that is not a MEMBER holds no frame work and has nothing set aside (R49, R71, R94, R113,
R125, R162, R174). It has no duty holder (R34). -/
def Station.NonMemberIdle (s : Station) : Prop :=
  s.mbr.state ≠ .member →
    s.mbr.dutyHolder = none ∧ s.mbr.holderRemoved = false ∧
    s.ftc.records = [] ∧ s.inq = [] ∧ s.fie = [] ∧ s.rbe = [] ∧
    ∀ r, s.tbi.receiving = some r → r.aside = .nothing

/-- While RESET# is released, at most one entry is the current offer or in transmission; an entry in
transmission is being sent, and a station that contends sends nothing (1.6, R11). -/
def Station.OneOffer (s : Station) : Prop :=
  s.resetAsserted = false →
    s.tbi.queue.countP (fun e => e.status != .waiting) ≤ 1 ∧
    (s.tbi.sending = none → ∀ e ∈ s.tbi.queue, e.status ≠ .sending) ∧
    (s.tbi.contending = true → s.tbi.sending = none)

/-- In every frame record the ready stations are required ones (R57). -/
def Station.ReadyWithinRequired (s : Station) : Prop :=
  ∀ r ∈ s.ftc.records, setWithin r.readyStations r.requiredStations = true

/-- While RESET# is released, the panel port puts out black before the first pulse, and blanking in the
blanking interval and from the end of the last line to the next pulse (R143, R144, R156). -/
def Station.PanelFits (s : Station) : Prop :=
  s.resetAsserted = false →
    (s.scn.phase = .idle → s.scn.panel = .black) ∧
    (s.scn.phase = .blanking ∨ s.scn.phase = .ended → s.scn.panel = .blanking)

/-- The invariants together. -/
structure Station.Sound (s : Station) : Prop where
  memory : Memory.wf s.mem = true
  bounded : s.Bounded
  history : s.HistoryFits
  marks : s.MarksFit
  initList : s.InitListFits
  nonMember : s.NonMemberIdle
  oneOffer : s.OneOffer
  sets : s.ReadyWithinRequired
  panel : s.PanelFits

end Sys2Proof.Machine
end

