-- ==== Sys2Proof/Laws/State.lean ====
section
/-! SUPPORT. One lemma for each field under each update of a block. -/

namespace Sys2Proof.Machine

section
variable (f : Tbi → Tbi) (s : Station)
@[simp] theorem Station.onTbi_resetAsserted : (s.onTbi f).resetAsserted = s.resetAsserted := rfl
@[simp] theorem Station.onTbi_straps : (s.onTbi f).straps = s.straps := rfl
@[simp] theorem Station.onTbi_tbi : (s.onTbi f).tbi = f s.tbi := rfl
@[simp] theorem Station.onTbi_mbr : (s.onTbi f).mbr = s.mbr := rfl
@[simp] theorem Station.onTbi_ftc : (s.onTbi f).ftc = s.ftc := rfl
@[simp] theorem Station.onTbi_inq : (s.onTbi f).inq = s.inq := rfl
@[simp] theorem Station.onTbi_fie : (s.onTbi f).fie = s.fie := rfl
@[simp] theorem Station.onTbi_rbe : (s.onTbi f).rbe = s.rbe := rfl
@[simp] theorem Station.onTbi_mar : (s.onTbi f).mar = s.mar := rfl
@[simp] theorem Station.onTbi_scn : (s.onTbi f).scn = s.scn := rfl
@[simp] theorem Station.onTbi_stu : (s.onTbi f).stu = s.stu := rfl
@[simp] theorem Station.onTbi_mem : (s.onTbi f).mem = s.mem := rfl
@[simp] theorem Station.onTbi_free : (s.onTbi f).free = s.free := rfl
end

section
variable (f : Mbr → Mbr) (s : Station)
@[simp] theorem Station.onMbr_resetAsserted : (s.onMbr f).resetAsserted = s.resetAsserted := rfl
@[simp] theorem Station.onMbr_straps : (s.onMbr f).straps = s.straps := rfl
@[simp] theorem Station.onMbr_tbi : (s.onMbr f).tbi = s.tbi := rfl
@[simp] theorem Station.onMbr_mbr : (s.onMbr f).mbr = f s.mbr := rfl
@[simp] theorem Station.onMbr_ftc : (s.onMbr f).ftc = s.ftc := rfl
@[simp] theorem Station.onMbr_inq : (s.onMbr f).inq = s.inq := rfl
@[simp] theorem Station.onMbr_fie : (s.onMbr f).fie = s.fie := rfl
@[simp] theorem Station.onMbr_rbe : (s.onMbr f).rbe = s.rbe := rfl
@[simp] theorem Station.onMbr_mar : (s.onMbr f).mar = s.mar := rfl
@[simp] theorem Station.onMbr_scn : (s.onMbr f).scn = s.scn := rfl
@[simp] theorem Station.onMbr_stu : (s.onMbr f).stu = s.stu := rfl
@[simp] theorem Station.onMbr_mem : (s.onMbr f).mem = s.mem := rfl
@[simp] theorem Station.onMbr_free : (s.onMbr f).free = s.free := rfl
end

section
variable (f : Ftc → Ftc) (s : Station)
@[simp] theorem Station.onFtc_resetAsserted : (s.onFtc f).resetAsserted = s.resetAsserted := rfl
@[simp] theorem Station.onFtc_straps : (s.onFtc f).straps = s.straps := rfl
@[simp] theorem Station.onFtc_tbi : (s.onFtc f).tbi = s.tbi := rfl
@[simp] theorem Station.onFtc_mbr : (s.onFtc f).mbr = s.mbr := rfl
@[simp] theorem Station.onFtc_ftc : (s.onFtc f).ftc = f s.ftc := rfl
@[simp] theorem Station.onFtc_inq : (s.onFtc f).inq = s.inq := rfl
@[simp] theorem Station.onFtc_fie : (s.onFtc f).fie = s.fie := rfl
@[simp] theorem Station.onFtc_rbe : (s.onFtc f).rbe = s.rbe := rfl
@[simp] theorem Station.onFtc_mar : (s.onFtc f).mar = s.mar := rfl
@[simp] theorem Station.onFtc_scn : (s.onFtc f).scn = s.scn := rfl
@[simp] theorem Station.onFtc_stu : (s.onFtc f).stu = s.stu := rfl
@[simp] theorem Station.onFtc_mem : (s.onFtc f).mem = s.mem := rfl
@[simp] theorem Station.onFtc_free : (s.onFtc f).free = s.free := rfl
end

section
variable (f : List ApplyRecord → List ApplyRecord) (s : Station)
@[simp] theorem Station.onInq_resetAsserted : (s.onInq f).resetAsserted = s.resetAsserted := rfl
@[simp] theorem Station.onInq_straps : (s.onInq f).straps = s.straps := rfl
@[simp] theorem Station.onInq_tbi : (s.onInq f).tbi = s.tbi := rfl
@[simp] theorem Station.onInq_mbr : (s.onInq f).mbr = s.mbr := rfl
@[simp] theorem Station.onInq_ftc : (s.onInq f).ftc = s.ftc := rfl
@[simp] theorem Station.onInq_inq : (s.onInq f).inq = f s.inq := rfl
@[simp] theorem Station.onInq_fie : (s.onInq f).fie = s.fie := rfl
@[simp] theorem Station.onInq_rbe : (s.onInq f).rbe = s.rbe := rfl
@[simp] theorem Station.onInq_mar : (s.onInq f).mar = s.mar := rfl
@[simp] theorem Station.onInq_scn : (s.onInq f).scn = s.scn := rfl
@[simp] theorem Station.onInq_stu : (s.onInq f).stu = s.stu := rfl
@[simp] theorem Station.onInq_mem : (s.onInq f).mem = s.mem := rfl
@[simp] theorem Station.onInq_free : (s.onInq f).free = s.free := rfl
end

section
variable (f : List InitJob → List InitJob) (s : Station)
@[simp] theorem Station.onFie_resetAsserted : (s.onFie f).resetAsserted = s.resetAsserted := rfl
@[simp] theorem Station.onFie_straps : (s.onFie f).straps = s.straps := rfl
@[simp] theorem Station.onFie_tbi : (s.onFie f).tbi = s.tbi := rfl
@[simp] theorem Station.onFie_mbr : (s.onFie f).mbr = s.mbr := rfl
@[simp] theorem Station.onFie_ftc : (s.onFie f).ftc = s.ftc := rfl
@[simp] theorem Station.onFie_inq : (s.onFie f).inq = s.inq := rfl
@[simp] theorem Station.onFie_fie : (s.onFie f).fie = f s.fie := rfl
@[simp] theorem Station.onFie_rbe : (s.onFie f).rbe = s.rbe := rfl
@[simp] theorem Station.onFie_mar : (s.onFie f).mar = s.mar := rfl
@[simp] theorem Station.onFie_scn : (s.onFie f).scn = s.scn := rfl
@[simp] theorem Station.onFie_stu : (s.onFie f).stu = s.stu := rfl
@[simp] theorem Station.onFie_mem : (s.onFie f).mem = s.mem := rfl
@[simp] theorem Station.onFie_free : (s.onFie f).free = s.free := rfl
end

section
variable (f : List ReadRecord → List ReadRecord) (s : Station)
@[simp] theorem Station.onRbe_resetAsserted : (s.onRbe f).resetAsserted = s.resetAsserted := rfl
@[simp] theorem Station.onRbe_straps : (s.onRbe f).straps = s.straps := rfl
@[simp] theorem Station.onRbe_tbi : (s.onRbe f).tbi = s.tbi := rfl
@[simp] theorem Station.onRbe_mbr : (s.onRbe f).mbr = s.mbr := rfl
@[simp] theorem Station.onRbe_ftc : (s.onRbe f).ftc = s.ftc := rfl
@[simp] theorem Station.onRbe_inq : (s.onRbe f).inq = s.inq := rfl
@[simp] theorem Station.onRbe_fie : (s.onRbe f).fie = s.fie := rfl
@[simp] theorem Station.onRbe_rbe : (s.onRbe f).rbe = f s.rbe := rfl
@[simp] theorem Station.onRbe_mar : (s.onRbe f).mar = s.mar := rfl
@[simp] theorem Station.onRbe_scn : (s.onRbe f).scn = s.scn := rfl
@[simp] theorem Station.onRbe_stu : (s.onRbe f).stu = s.stu := rfl
@[simp] theorem Station.onRbe_mem : (s.onRbe f).mem = s.mem := rfl
@[simp] theorem Station.onRbe_free : (s.onRbe f).free = s.free := rfl
end

section
variable (f : Mar → Mar) (s : Station)
@[simp] theorem Station.onMar_resetAsserted : (s.onMar f).resetAsserted = s.resetAsserted := rfl
@[simp] theorem Station.onMar_straps : (s.onMar f).straps = s.straps := rfl
@[simp] theorem Station.onMar_tbi : (s.onMar f).tbi = s.tbi := rfl
@[simp] theorem Station.onMar_mbr : (s.onMar f).mbr = s.mbr := rfl
@[simp] theorem Station.onMar_ftc : (s.onMar f).ftc = s.ftc := rfl
@[simp] theorem Station.onMar_inq : (s.onMar f).inq = s.inq := rfl
@[simp] theorem Station.onMar_fie : (s.onMar f).fie = s.fie := rfl
@[simp] theorem Station.onMar_rbe : (s.onMar f).rbe = s.rbe := rfl
@[simp] theorem Station.onMar_mar : (s.onMar f).mar = f s.mar := rfl
@[simp] theorem Station.onMar_scn : (s.onMar f).scn = s.scn := rfl
@[simp] theorem Station.onMar_stu : (s.onMar f).stu = s.stu := rfl
@[simp] theorem Station.onMar_mem : (s.onMar f).mem = s.mem := rfl
@[simp] theorem Station.onMar_free : (s.onMar f).free = s.free := rfl
end

section
variable (f : Scn → Scn) (s : Station)
@[simp] theorem Station.onScn_resetAsserted : (s.onScn f).resetAsserted = s.resetAsserted := rfl
@[simp] theorem Station.onScn_straps : (s.onScn f).straps = s.straps := rfl
@[simp] theorem Station.onScn_tbi : (s.onScn f).tbi = s.tbi := rfl
@[simp] theorem Station.onScn_mbr : (s.onScn f).mbr = s.mbr := rfl
@[simp] theorem Station.onScn_ftc : (s.onScn f).ftc = s.ftc := rfl
@[simp] theorem Station.onScn_inq : (s.onScn f).inq = s.inq := rfl
@[simp] theorem Station.onScn_fie : (s.onScn f).fie = s.fie := rfl
@[simp] theorem Station.onScn_rbe : (s.onScn f).rbe = s.rbe := rfl
@[simp] theorem Station.onScn_mar : (s.onScn f).mar = s.mar := rfl
@[simp] theorem Station.onScn_scn : (s.onScn f).scn = f s.scn := rfl
@[simp] theorem Station.onScn_stu : (s.onScn f).stu = s.stu := rfl
@[simp] theorem Station.onScn_mem : (s.onScn f).mem = s.mem := rfl
@[simp] theorem Station.onScn_free : (s.onScn f).free = s.free := rfl
end

section
variable (f : Stu → Stu) (s : Station)
@[simp] theorem Station.onStu_resetAsserted : (s.onStu f).resetAsserted = s.resetAsserted := rfl
@[simp] theorem Station.onStu_straps : (s.onStu f).straps = s.straps := rfl
@[simp] theorem Station.onStu_tbi : (s.onStu f).tbi = s.tbi := rfl
@[simp] theorem Station.onStu_mbr : (s.onStu f).mbr = s.mbr := rfl
@[simp] theorem Station.onStu_ftc : (s.onStu f).ftc = s.ftc := rfl
@[simp] theorem Station.onStu_inq : (s.onStu f).inq = s.inq := rfl
@[simp] theorem Station.onStu_fie : (s.onStu f).fie = s.fie := rfl
@[simp] theorem Station.onStu_rbe : (s.onStu f).rbe = s.rbe := rfl
@[simp] theorem Station.onStu_mar : (s.onStu f).mar = s.mar := rfl
@[simp] theorem Station.onStu_scn : (s.onStu f).scn = s.scn := rfl
@[simp] theorem Station.onStu_stu : (s.onStu f).stu = f s.stu := rfl
@[simp] theorem Station.onStu_mem : (s.onStu f).mem = s.mem := rfl
@[simp] theorem Station.onStu_free : (s.onStu f).free = s.free := rfl
end

section
variable (f : Memory → Memory) (s : Station)
@[simp] theorem Station.onMem_resetAsserted : (s.onMem f).resetAsserted = s.resetAsserted := rfl
@[simp] theorem Station.onMem_straps : (s.onMem f).straps = s.straps := rfl
@[simp] theorem Station.onMem_tbi : (s.onMem f).tbi = s.tbi := rfl
@[simp] theorem Station.onMem_mbr : (s.onMem f).mbr = s.mbr := rfl
@[simp] theorem Station.onMem_ftc : (s.onMem f).ftc = s.ftc := rfl
@[simp] theorem Station.onMem_inq : (s.onMem f).inq = s.inq := rfl
@[simp] theorem Station.onMem_fie : (s.onMem f).fie = s.fie := rfl
@[simp] theorem Station.onMem_rbe : (s.onMem f).rbe = s.rbe := rfl
@[simp] theorem Station.onMem_mar : (s.onMem f).mar = s.mar := rfl
@[simp] theorem Station.onMem_scn : (s.onMem f).scn = s.scn := rfl
@[simp] theorem Station.onMem_stu : (s.onMem f).stu = s.stu := rfl
@[simp] theorem Station.onMem_mem : (s.onMem f).mem = f s.mem := rfl
@[simp] theorem Station.onMem_free : (s.onMem f).free = s.free := rfl
end

section
variable (c : Counter) (v : Bool) (s : Station)
@[simp] theorem Station.count_resetAsserted : (s.count c).resetAsserted = s.resetAsserted := rfl
@[simp] theorem Station.setPendingReport_resetAsserted : (s.setPendingReport v).resetAsserted = s.resetAsserted := rfl
@[simp] theorem Station.zeroCounters_resetAsserted : s.zeroCounters.resetAsserted = s.resetAsserted := rfl
@[simp] theorem Station.count_straps : (s.count c).straps = s.straps := rfl
@[simp] theorem Station.setPendingReport_straps : (s.setPendingReport v).straps = s.straps := rfl
@[simp] theorem Station.zeroCounters_straps : s.zeroCounters.straps = s.straps := rfl
@[simp] theorem Station.count_tbi : (s.count c).tbi = s.tbi := rfl
@[simp] theorem Station.setPendingReport_tbi : (s.setPendingReport v).tbi = s.tbi := rfl
@[simp] theorem Station.zeroCounters_tbi : s.zeroCounters.tbi = s.tbi := rfl
@[simp] theorem Station.count_mbr : (s.count c).mbr = s.mbr := rfl
@[simp] theorem Station.setPendingReport_mbr : (s.setPendingReport v).mbr = s.mbr := rfl
@[simp] theorem Station.zeroCounters_mbr : s.zeroCounters.mbr = s.mbr := rfl
@[simp] theorem Station.count_ftc : (s.count c).ftc = s.ftc := rfl
@[simp] theorem Station.setPendingReport_ftc : (s.setPendingReport v).ftc = s.ftc := rfl
@[simp] theorem Station.zeroCounters_ftc : s.zeroCounters.ftc = s.ftc := rfl
@[simp] theorem Station.count_inq : (s.count c).inq = s.inq := rfl
@[simp] theorem Station.setPendingReport_inq : (s.setPendingReport v).inq = s.inq := rfl
@[simp] theorem Station.zeroCounters_inq : s.zeroCounters.inq = s.inq := rfl
@[simp] theorem Station.count_fie : (s.count c).fie = s.fie := rfl
@[simp] theorem Station.setPendingReport_fie : (s.setPendingReport v).fie = s.fie := rfl
@[simp] theorem Station.zeroCounters_fie : s.zeroCounters.fie = s.fie := rfl
@[simp] theorem Station.count_rbe : (s.count c).rbe = s.rbe := rfl
@[simp] theorem Station.setPendingReport_rbe : (s.setPendingReport v).rbe = s.rbe := rfl
@[simp] theorem Station.zeroCounters_rbe : s.zeroCounters.rbe = s.rbe := rfl
@[simp] theorem Station.count_mar : (s.count c).mar = s.mar := rfl
@[simp] theorem Station.setPendingReport_mar : (s.setPendingReport v).mar = s.mar := rfl
@[simp] theorem Station.zeroCounters_mar : s.zeroCounters.mar = s.mar := rfl
@[simp] theorem Station.count_scn : (s.count c).scn = s.scn := rfl
@[simp] theorem Station.setPendingReport_scn : (s.setPendingReport v).scn = s.scn := rfl
@[simp] theorem Station.zeroCounters_scn : s.zeroCounters.scn = s.scn := rfl
@[simp] theorem Station.count_mem : (s.count c).mem = s.mem := rfl
@[simp] theorem Station.setPendingReport_mem : (s.setPendingReport v).mem = s.mem := rfl
@[simp] theorem Station.zeroCounters_mem : s.zeroCounters.mem = s.mem := rfl
@[simp] theorem Station.count_free : (s.count c).free = s.free := rfl
@[simp] theorem Station.setPendingReport_free : (s.setPendingReport v).free = s.free := rfl
@[simp] theorem Station.zeroCounters_free : s.zeroCounters.free = s.free := rfl
theorem Station.count_stu : (s.count c).stu =
    { s.stu with counters := s.stu.counters.set c (saturate (s.stu.counters.get c)) } := rfl
theorem Station.setPendingReport_stu : (s.setPendingReport v).stu = { s.stu with pendingReport := v } := rfl
theorem Station.zeroCounters_stu : s.zeroCounters.stu = { s.stu with counters := {} } := rfl
@[simp] theorem Station.count_number : (s.count c).number = s.number := rfl
end

@[simp] theorem Station.onTbi_number (f : Tbi → Tbi) (s : Station) : (s.onTbi f).number = s.number := rfl
@[simp] theorem Station.onMbr_number (f : Mbr → Mbr) (s : Station) : (s.onMbr f).number = s.number := rfl
@[simp] theorem Station.onFtc_number (f : Ftc → Ftc) (s : Station) : (s.onFtc f).number = s.number := rfl
@[simp] theorem Station.onInq_number (f : List ApplyRecord → List ApplyRecord) (s : Station) : (s.onInq f).number = s.number := rfl
@[simp] theorem Station.onFie_number (f : List InitJob → List InitJob) (s : Station) : (s.onFie f).number = s.number := rfl
@[simp] theorem Station.onRbe_number (f : List ReadRecord → List ReadRecord) (s : Station) : (s.onRbe f).number = s.number := rfl
@[simp] theorem Station.onMar_number (f : Mar → Mar) (s : Station) : (s.onMar f).number = s.number := rfl
@[simp] theorem Station.onScn_number (f : Scn → Scn) (s : Station) : (s.onScn f).number = s.number := rfl
@[simp] theorem Station.onStu_number (f : Stu → Stu) (s : Station) : (s.onStu f).number = s.number := rfl
@[simp] theorem Station.onMem_number (f : Memory → Memory) (s : Station) : (s.onMem f).number = s.number := rfl

end Sys2Proof.Machine
end

