-- ==== Sys2Proof/Laws/Memory.lean ====
section
/-! SUPPORT. The tile memory: every operation keeps the canonical form, and what a read gives after a
write. -/

namespace Sys2Proof.Machine

/-! ## The canonical form -/

theorem Memory.wf_cons (a : Nat) (v : Byte) (m : Memory) :
    Memory.wf ((a, v) :: m) = true ↔
      v ≠ Memory.unlisted ∧ (∀ c ∈ m, a < c.1) ∧ Memory.wf m = true := by
  simp [Memory.wf, and_assoc]

/-- Every address a write leaves listed is the written one or was listed. -/
theorem Memory.mem_write {m : Memory} {k : Nat} {v : Byte} {c : Host.Cell}
    (h : c ∈ Memory.write m k v) : c.1 = k ∨ c ∈ m := by
  induction m with
  | nil =>
    simp only [Memory.write] at h
    split at h <;> simp_all
  | cons x m ih =>
    obtain ⟨a, w⟩ := x
    simp only [Memory.write] at h
    split at h
    · split at h
      · exact .inr h
      · rcases List.mem_cons.1 h with rfl | h
        · exact .inl rfl
        · exact .inr h
    · split at h
      · split at h
        · exact .inr (List.mem_cons_of_mem _ h)
        · rcases List.mem_cons.1 h with rfl | h
          · exact .inl rfl
          · exact .inr (List.mem_cons_of_mem _ h)
      · rcases List.mem_cons.1 h with rfl | h
        · exact .inr List.mem_cons_self
        · rcases ih h with h | h
          · exact .inl h
          · exact .inr (List.mem_cons_of_mem _ h)

theorem Memory.wf_write {m : Memory} (k : Nat) (v : Byte) (h : Memory.wf m = true) :
    Memory.wf (Memory.write m k v) = true := by
  induction m with
  | nil =>
    simp only [Memory.write]
    split <;> simp_all [Memory.wf]
  | cons x m ih =>
    obtain ⟨a, w⟩ := x
    obtain ⟨hw, hlt, hm⟩ := (Memory.wf_cons a w m).1 h
    simp only [Memory.write]
    split
    · rename_i hka
      split
      · exact h
      · refine (Memory.wf_cons ..).2 ⟨by assumption, ?_, h⟩
        intro c hc
        rcases List.mem_cons.1 hc with rfl | hc
        · exact hka
        · exact Nat.lt_trans hka (hlt c hc)
    · split
      · rename_i hka
        subst hka
        split
        · exact hm
        · exact (Memory.wf_cons ..).2 ⟨by assumption, hlt, hm⟩
      · refine (Memory.wf_cons ..).2 ⟨hw, ?_, ih hm⟩
        intro c hc
        rcases Memory.mem_write hc with hc | hc
        · omega
        · exact hlt c hc

theorem Memory.wf_writePixel {m : Memory} (b : Buf) (line col : Nat) (p : Pixel)
    (h : Memory.wf m = true) : Memory.wf (Memory.writePixel m b line col p) = true :=
  Memory.wf_write _ _ (Memory.wf_write _ _ (Memory.wf_write _ _ (Memory.wf_write _ _ h)))

theorem Memory.wf_writeRun (b : Buf) (line col : Nat) (ps : List Pixel) {m : Memory}
    (h : Memory.wf m = true) : Memory.wf (Memory.writeRun b line col ps m) = true := by
  induction ps generalizing col m with
  | nil => exact h
  | cons p ps ih => exact ih _ (Memory.wf_writePixel _ _ _ _ h)

theorem Memory.wf_combineRun (op : RasterOp) (mask : BitVec 4) (b : Buf) (line col : Nat)
    (vs : List Pixel) {m : Memory} (h : Memory.wf m = true) :
    Memory.wf (Memory.combineRun op mask b line col vs m) = true := by
  induction vs generalizing col m with
  | nil => exact h
  | cons p ps ih => exact ih _ (Memory.wf_writePixel _ _ _ _ h)

theorem Memory.wf_mixRun (new : Memory) (choice k n : Nat) {m : Memory}
    (h : Memory.wf m = true) : Memory.wf (Memory.mixRun new choice k n m) = true := by
  induction n generalizing k m with
  | zero => exact h
  | succ n ih =>
    refine ih _ ?_
    split
    · exact Memory.wf_write _ _ h
    · exact h

theorem BurstWork.wf_write (w : BurstWork) {m : Memory} (h : Memory.wf m = true) :
    Memory.wf (w.write m) = true := by
  cases w with
  | scan | mref | read => exact h
  | apply sp op mask vs slot => exact Memory.wf_combineRun _ _ _ _ _ _ h
  | initFill sp c => exact Memory.wf_writeRun _ _ _ _ h
  | initCopy src sp => exact Memory.wf_writeRun _ _ _ _ h

theorem BurstWork.wf_abandon (w : BurstWork) (choice : Nat) {m : Memory} (h : Memory.wf m = true) :
    Memory.wf (w.abandon choice m) = true := by
  unfold BurstWork.abandon
  split
  · exact h
  · exact Memory.wf_mixRun _ _ _ _ h

/-! ## Reads after writes -/

/-- An address below every listed one reads as unlisted. -/
theorem Memory.read_below {m : Memory} {k : Nat} (h : ∀ c ∈ m, k < c.1) :
    Memory.read m k = Memory.unlisted := by
  induction m with
  | nil => rfl
  | cons x m ih =>
    obtain ⟨a, w⟩ := x
    have ha : k < a := h (a, w) List.mem_cons_self
    simp only [Memory.read, Nat.ne_of_gt ha, if_false]
    exact ih fun c hc => h c (List.mem_cons_of_mem _ hc)

/-- A byte after a write: the written one at its address, as before everywhere else. -/
theorem Memory.read_write {m : Memory} (k : Nat) (v : Byte) (a : Nat) (h : Memory.wf m = true) :
    Memory.read (Memory.write m k v) a = if a = k then v else Memory.read m a := by
  induction m with
  | nil =>
    simp only [Memory.write]
    split
    · simp_all [Memory.read]
    · simp only [Memory.read, eq_comm]
  | cons x m ih =>
    obtain ⟨b, w⟩ := x
    obtain ⟨-, hlt, hm⟩ := (Memory.wf_cons b w m).1 h
    have hbelow : ∀ k', k' < b → Memory.read ((b, w) :: m) k' = Memory.unlisted := fun k' hk =>
      Memory.read_below fun c hc => by
        rcases List.mem_cons.1 hc with rfl | hc
        · exact hk
        · exact Nat.lt_trans hk (hlt c hc)
    simp only [Memory.write]
    split
    · rename_i hkb
      split
      · rename_i hv
        split
        · subst_vars; exact hbelow _ hkb
        · rfl
      · by_cases hak : a = k
        · simp [Memory.read, hak]
        · simp [Memory.read, hak, Ne.symm hak]
    · split
      · rename_i hkb
        subst hkb
        split
        · rename_i hv
          by_cases hak : a = k
          · subst hak; simp [hv, Memory.read_below hlt]
          · simp [Memory.read, hak, Ne.symm hak]
        · by_cases hak : a = k
          · simp [Memory.read, hak]
          · simp [Memory.read, hak, Ne.symm hak]
      · rename_i hkb hne
        by_cases hab : b = a
        · subst hab
          have : b ≠ k := fun e => hne e.symm
          simp [Memory.read, this]
        · simp only [Memory.read, hab, if_false]
          exact ih hm

/-- A byte outside the four of a pixel is as before. -/
theorem Memory.read_writePixel_ne {m : Memory} (b : Buf) (line col : Nat) (p : Pixel) {a : Nat}
    (h : Memory.wf m = true) (ha : a < pixelAddr b line col ∨ pixelAddr b line col + 4 ≤ a) :
    Memory.read (Memory.writePixel m b line col p) a = Memory.read m a := by
  have h1 := Memory.wf_write (pixelAddr b line col) p.r h
  have h2 := Memory.wf_write (pixelAddr b line col + 1) p.g h1
  have h3 := Memory.wf_write (pixelAddr b line col + 2) p.b h2
  simp only [Memory.writePixel]
  rw [Memory.read_write _ _ _ h3, Memory.read_write _ _ _ h2, Memory.read_write _ _ _ h1,
    Memory.read_write _ _ _ h]
  rw [if_neg (by omega), if_neg (by omega), if_neg (by omega), if_neg (by omega)]

/-- A pixel after it is written. -/
theorem Memory.readPixel_writePixel {m : Memory} (b : Buf) (line col : Nat) (p : Pixel)
    (h : Memory.wf m = true) :
    Memory.readPixel (Memory.writePixel m b line col p) b line col = p := by
  have h1 := Memory.wf_write (pixelAddr b line col) p.r h
  have h2 := Memory.wf_write (pixelAddr b line col + 1) p.g h1
  have h3 := Memory.wf_write (pixelAddr b line col + 2) p.b h2
  simp [Memory.readPixel, Memory.writePixel, Memory.read_write _ _ _ h3,
    Memory.read_write _ _ _ h2, Memory.read_write _ _ _ h1, Memory.read_write _ _ _ h]

/-- Another pixel, apart from the written one, is as before. -/
theorem Memory.readPixel_writePixel_apart {m : Memory} {b b' : Buf} {l l' c c' : Nat} (p : Pixel)
    (h : Memory.wf m = true)
    (ha : pixelAddr b' l' c' + 4 ≤ pixelAddr b l c ∨ pixelAddr b l c + 4 ≤ pixelAddr b' l' c') :
    Memory.readPixel (Memory.writePixel m b l c p) b' l' c' = Memory.readPixel m b' l' c' := by
  simp only [Memory.readPixel]
  rw [Memory.read_writePixel_ne _ _ _ _ h (by omega), Memory.read_writePixel_ne _ _ _ _ h (by omega),
    Memory.read_writePixel_ne _ _ _ _ h (by omega), Memory.read_writePixel_ne _ _ _ _ h (by omega)]

theorem Buf.index_inj {b b' : Buf} (h : b.index = b'.index) : b = b' := by
  cases b <;> cases b' <;> first | rfl | exact absurd h (by decide)

/-- Two pixels share no byte unless they lie at one place, for lines and columns of the largest
format's extent. -/
theorem pixelAddr_apart {b b' : Buf} {l l' c c' : Nat} (hl : l < 2160) (hl' : l' < 2160)
    (hc : c < 3840) (hc' : c' < 3840) (hne : b ≠ b' ∨ l ≠ l' ∨ c ≠ c') :
    pixelAddr b' l' c' + 4 ≤ pixelAddr b l c ∨ pixelAddr b l c + 4 ≤ pixelAddr b' l' c' := by
  have : b.index ≠ b'.index ∨ l ≠ l' ∨ c ≠ c' := hne.imp_left fun h e => h (Buf.index_inj e)
  unfold pixelAddr
  omega

/-- A byte outside a written run is as before. -/
theorem Memory.read_writeRun_ne (b : Buf) (line col : Nat) (ps : List Pixel) {m : Memory} {a : Nat}
    (h : Memory.wf m = true)
    (ha : a < pixelAddr b line col ∨ pixelAddr b line col + 4 * ps.length ≤ a) :
    Memory.read (Memory.writeRun b line col ps m) a = Memory.read m a := by
  induction ps generalizing col m with
  | nil => rfl
  | cons p ps ih =>
    have hstep : pixelAddr b line (col + 1) = pixelAddr b line col + 4 := by
      unfold pixelAddr; omega
    simp only [List.length_cons] at ha
    simp only [Memory.writeRun]
    rw [ih _ (Memory.wf_writePixel _ _ _ _ h) (by omega),
      Memory.read_writePixel_ne _ _ _ _ h (by omega)]

/-- A byte outside a combined run is as before. -/
theorem Memory.read_combineRun_ne (op : RasterOp) (mask : BitVec 4) (b : Buf) (line col : Nat)
    (ps : List Pixel) {m : Memory} {a : Nat} (h : Memory.wf m = true)
    (ha : a < pixelAddr b line col ∨ pixelAddr b line col + 4 * ps.length ≤ a) :
    Memory.read (Memory.combineRun op mask b line col ps m) a = Memory.read m a := by
  induction ps generalizing col m with
  | nil => rfl
  | cons p ps ih =>
    have hstep : pixelAddr b line (col + 1) = pixelAddr b line col + 4 := by
      unfold pixelAddr; omega
    simp only [List.length_cons] at ha
    simp only [Memory.combineRun]
    rw [ih _ (Memory.wf_writePixel _ _ _ _ h) (by omega),
      Memory.read_writePixel_ne _ _ _ _ h (by omega)]

/-- A byte of an abandoned burst's memory reads as before or as the burst would have left it. -/
theorem Memory.read_mixRun (new : Memory) (choice k n a : Nat) {m : Memory}
    (h : Memory.wf m = true) :
    Memory.read (Memory.mixRun new choice k n m) a = Memory.read m a ∨
      Memory.read (Memory.mixRun new choice k n m) a = Memory.read new a := by
  induction n generalizing k m with
  | zero => exact .inl rfl
  | succ n ih =>
    simp only [Memory.mixRun]
    split
    · rcases ih (k + 1) (Memory.wf_write k (Memory.read new k) h) with e | e
      · rw [e, Memory.read_write _ _ _ h]
        split
        · subst_vars; exact .inr rfl
        · exact .inl rfl
      · exact .inr e
    · exact ih (k + 1) h

end Sys2Proof.Machine
end

