-- ==== Sys2Proof/Laws/Exec.lean ====
section
/-! SUPPORT. Outcomes, frames, counters and steps: what each shared wrapper can do, said once. -/

namespace Sys2Proof.Machine

/-! ## Liveness -/

theorem onLive_live {f : Station → Station} {s : State} (h : s.resetAsserted = false) :
    onLive f s = .next { s with toStation := f s.toStation } := by
  simp [onLive, h]

theorem onLive_asserted {f : Station → Station} {s : State} (h : s.resetAsserted = true) :
    onLive f s = .next s := by
  simp [onLive, h]

/-- A live event answers a next state: the station moved or as it was, the queue kept. -/
theorem onLive_next (f : Station → Station) (s : State) :
    ∃ t, onLive f s = .next t ∧ t.pending = s.pending ∧
      t.toStation = if s.resetAsserted then s.toStation else f s.toStation := by
  cases h : s.resetAsserted
  · exact ⟨_, onLive_live h, rfl, by simp⟩
  · exact ⟨s, onLive_asserted h, rfl, by simp⟩

/-! ## Steps -/

theorem step_cons {s : State} {c : Instr} {rest : List Instr} (h : s.pending = c :: rest) :
    step s = exec c { s with pending := rest } := by
  simp [step, h]

theorem step_nil {s : State} (h : s.pending = []) : step s = .next s.timePasses := by
  simp [step, h]

/-! ## Frames -/

/-- A statement of every block is one of each. -/
theorem forall_block (p : Block → Prop) :
    (∀ b, p b) ↔ p .reset ∧ p .straps ∧ p .tbi ∧ p .mbr ∧ p .ftc ∧ p .inq ∧ p .fie ∧ p .rbe ∧
      p .mar ∧ p .scn ∧ p .stu ∧ p .mem ∧ p .free := by
  constructor
  · intro h
    exact ⟨h _, h _, h _, h _, h _, h _, h _, h _, h _, h _, h _, h _, h _⟩
  · rintro ⟨h1, h2, h3, h4, h5, h6, h7, h8, h9, h10, h11, h12, h13⟩ b
    cases b <;> assumption

theorem Block.same_refl (b : Block) (s : Station) : b.same s s := by
  cases b <;> simp [Block.same]

/-! ## Counters -/

theorem Counters.get_set_same (k : Counters) (c : Counter) (n : Nat) : (k.set c n).get c = n := by
  cases c <;> rfl

theorem Counters.get_set_other {c d : Counter} (k : Counters) (n : Nat) (h : d ≠ c) :
    (k.set c n).get d = k.get d := by
  cases c <;> cases d <;> first | rfl | exact absurd rfl h

theorem saturate_le {n : Nat} (h : n ≤ 65535) : saturate n ≤ 65535 := by
  unfold saturate; split <;> omega

/-! ## Buffers -/

theorem Buffers.get_set_same (k : Buffers) (b : Buf) (d : BufDesc) : (k.set b d).get b = d := by
  cases b <;> rfl

theorem Buffers.get_set_other {b c : Buf} (k : Buffers) (d : BufDesc) (h : c ≠ b) :
    (k.set b d).get c = k.get c := by
  cases b <;> cases c <;> first | rfl | exact absurd rfl h

theorem Buffers.get_set (k : Buffers) (b c : Buf) (d : BufDesc) :
    (k.set b d).get c = if c = b then d else k.get c := by
  split
  · subst_vars; exact Buffers.get_set_same ..
  · exact Buffers.get_set_other _ _ ‹_›

@[simp] theorem BufDesc.release_inFlight (d : BufDesc) : d.release.inFlight = d.inFlight := rfl
@[simp] theorem BufDesc.mark_inFlight (d : BufDesc) : d.mark.inFlight = true := rfl
@[simp] theorem BufDesc.mark_state (d : BufDesc) : d.mark.state = d.state := rfl
@[simp] theorem BufDesc.unmark_inFlight (d : BufDesc) : d.unmark.inFlight = false := rfl

end Sys2Proof.Machine
end

