-- ==== Sys2Proof/Laws/Bus.lean ====
section
/-! SUPPORT. A message from its check code to its verdict: one lemma for each way it can go. -/

namespace Sys2Proof.Machine

theorem slotsClear_clear : slotsClear Slots.clear = true := rfl

/-- The own slots of a message that this station neither refuses nor finds damaged. -/
theorem Receiving.slots_passed {r : Receiving} (n : Nat) (v : Slots) (hr : r.refused = false)
    (hm : r.message.isSome = true) : r.slots n v = v := by
  have h : r.message.isNone = false := by cases hx : r.message <;> simp_all
  cases v
  simp [Receiving.slots, hr, h]

theorem Tbi.canHear_of_takes {s : Station} (h : s.takes) : s.tbi.canHear = true := by
  simp [Tbi.canHear, h.2.1, h.2.2]

/-- The whole of a message is its check code and then its verdict. -/
theorem Station.message_whole {s : Station} (h : s.tbi.receiving = none) (k : Kind) (d : Decide)
    (st : Stands) (x : Heard) (v : Slots) :
    s.message k d st (.whole x v) = (s.message k d st (.checkCode x)).message k d st (.verdict v) := by
  simp [Station.message, h]

/-! ## The check code -/

theorem Station.hear_damaged {s : Station} (ht : s.takes) {k : Kind} (d : Decide) {h : Heard}
    (hr : readMessage k h = none) : s.hear k d h = s.hearDamaged k.code h := by
  simp [Station.hear, Tbi.canHear_of_takes ht, hr]

/-- The record of a message in hand that this station passes. -/
def passedRecord (k : Kind) (h : Heard) (m : Message) (own : Bool) (a : SetAside) : Receiving :=
  { code := k.code, sender := wordParty h.word, message := some m, own, refused := false, aside := a }

theorem Station.hear_passed {s : Station} {k : Kind} {d : Decide} {h : Heard} {m : Message}
    {a : SetAside} (ho : s.hearsOther k h m) (hs : s.mbr.state = .member)
    (hd : d (wordParty h.word) m s = .pass a) :
    s.hear k d h = s.onTbi (Tbi.receive (passedRecord k h m false a)) := by
  obtain ⟨ht, hn, hr⟩ := ho
  simp [Station.hear, Tbi.canHear_of_takes ht, hr, Station.hearUndamaged, hn, hs, hd, passedRecord]

theorem Station.hear_refused {s : Station} {k : Kind} {d : Decide} {h : Heard} {m : Message}
    {c : Counter} (ho : s.hearsOther k h m) (hs : s.mbr.state = .member)
    (hd : d (wordParty h.word) m s = .refuse c) :
    s.hear k d h =
      (s.onTbi (Tbi.receive { passedRecord k h m false .nothing with refused := true })).count c := by
  obtain ⟨ht, hn, hr⟩ := ho
  simp [Station.hear, Tbi.canHear_of_takes ht, hr, Station.hearUndamaged, hn, hs, hd, passedRecord]

theorem Station.hear_nonMember {s : Station} {k : Kind} (d : Decide) {h : Heard} {m : Message}
    (ho : s.hearsOther k h m) (hs : s.mbr.state ≠ .member) :
    s.hear k d h = s.onTbi (Tbi.receive (passedRecord k h m false .nothing)) := by
  obtain ⟨ht, hn, hr⟩ := ho
  simp [Station.hear, Tbi.canHear_of_takes ht, hr, Station.hearUndamaged, hn, hs, passedRecord]

theorem Station.hear_own {s : Station} {k : Kind} (d : Decide) {h : Heard} {m : Message}
    {e : TxEntry} (ho : s.hearsOwn k h m e) :
    s.hear k d h = s.onTbi (Tbi.receive (passedRecord k h m true .nothing)) := by
  obtain ⟨ht, hn, -, -, hr⟩ := ho
  simp [Station.hear, Tbi.canHear_of_takes ht, hr, Station.hearUndamaged, hn, passedRecord]

/-! ## The whole message -/

theorem Station.onTbi_onTbi (f g : Tbi → Tbi) (s : Station) :
    (s.onTbi f).onTbi g = s.onTbi fun t => g (f t) := rfl

theorem Station.onTbi_congr {f g : Tbi → Tbi} {s : Station} (h : f s.tbi = g s.tbi) :
    s.onTbi f = s.onTbi g := by
  simp [Station.onTbi, h]

/-- What is left of the bus interface once another party's passed message is over. -/
theorem Station.receive_over {s : Station} (hr : s.tbi.receiving = none) (r : Receiving) :
    (s.onTbi (Tbi.receive r)).onTbi (fun t => { t with receiving := none }) = s.onTbi Tbi.passedBy := by
  rw [Station.onTbi_onTbi]
  apply Station.onTbi_congr
  simp only [Tbi.receive, Tbi.passedBy, ← hr]

/-! ### The end of the message in hand -/

theorem Station.closeReceiving_heard {r : Receiving} (h : r.message.isSome = true) (s : Station) :
    s.closeReceiving r = s.onTbi fun t => { t with receiving := none } := by
  cases hm : r.message <;> simp_all [Station.closeReceiving]

theorem Station.closeReceiving_damaged {r : Receiving} (h : r.message = none) (s : Station) :
    s.closeReceiving r = (s.count .damageMarked).onTbi fun t => { t with receiving := none } := by
  simp [Station.closeReceiving, h]

/-- The verdict of a message in hand that this station neither refused nor found damaged. -/
theorem Station.verdict_passed {s : Station} {r : Receiving} (st : Stands) (v : Slots)
    (h : s.tbi.receiving = some r) (hr : r.refused = false) (hm : r.message.isSome = true) :
    s.verdict r.code st v =
      if slotsClear v then
        st r (if r.own then (s.onTbi fun t => { t with receiving := none }).onTbi Tbi.ownStands
              else s.onTbi fun t => { t with receiving := none })
      else if r.own then (s.onTbi fun t => { t with receiving := none }).ownVoid v.damage
      else s.onTbi fun t => { t with receiving := none } := by
  simp [Station.verdict, h, Receiving.slots_passed _ _ hr hm, Station.closeReceiving_heard hm]

theorem Station.verdict_other {s : Station} (hrec : s.tbi.receiving = none) (k : Kind) (h : Heard)
    (m : Message) (a : SetAside) (st : Stands) (v : Slots) :
    (s.onTbi (Tbi.receive (passedRecord k h m false a))).verdict k.code st v =
      if slotsClear v then st (passedRecord k h m false a) (s.onTbi Tbi.passedBy)
      else s.onTbi Tbi.passedBy := by
  have := Station.verdict_passed (s := s.onTbi (Tbi.receive (passedRecord k h m false a)))
    (r := passedRecord k h m false a) st v rfl rfl rfl
  rw [Station.receive_over hrec] at this
  exact this

/-- Another party's message that this MEMBER passes, at its verdict. -/
theorem Station.message_passed {s : Station} {k : Kind} {d : Decide} {h : Heard} {m : Message}
    {a : SetAside} (st : Stands) (v : Slots) (ho : s.hearsOther k h m) (hs : s.mbr.state = .member)
    (hd : d (wordParty h.word) m s = .pass a) :
    s.message k d st (.whole h v) =
      if slotsClear v then st (passedRecord k h m false a) (s.onTbi Tbi.passedBy)
      else s.onTbi Tbi.passedBy := by
  have hrec := ho.1.2.2
  simp only [Station.message, hrec, Option.isSome_none, Station.hear_passed ho hs hd]
  exact Station.verdict_other hrec ..

/-- Another party's message at a station that is not a MEMBER. -/
theorem Station.message_nonMember {s : Station} {k : Kind} (d : Decide) {h : Heard} {m : Message}
    (st : Stands) (v : Slots) (ho : s.hearsOther k h m) (hs : s.mbr.state ≠ .member) :
    s.message k d st (.whole h v) =
      if slotsClear v then st (passedRecord k h m false .nothing) (s.onTbi Tbi.passedBy)
      else s.onTbi Tbi.passedBy := by
  have hrec := ho.1.2.2
  simp only [Station.message, hrec, Option.isSome_none, Station.hear_nonMember d ho hs]
  exact Station.verdict_other hrec ..

/-- A kind that every station passes with nothing set aside. -/
theorem Station.message_passes {s : Station} {k : Kind} {h : Heard} {m : Message} (st : Stands)
    (v : Slots) (ho : s.hearsOther k h m) :
    s.message k passes st (.whole h v) =
      if slotsClear v then st (passedRecord k h m false .nothing) (s.onTbi Tbi.passedBy)
      else s.onTbi Tbi.passedBy := by
  by_cases hs : s.mbr.state = .member
  · exact Station.message_passed st v ho hs rfl
  · exact Station.message_nonMember _ st v ho hs

/-- The bus interface after an own message has stood, in the words of the statements. -/
theorem Tbi.ownStands_receive (t : Tbi) (r : Receiving) (h : t.receiving = none) :
    ({ t.receive r with receiving := none } : Tbi).ownStands = t.ownPassed := by
  obtain ⟨q, ht, v, c, se, re, st⟩ := t
  subst h
  cases ht <;>
    simp [Tbi.ownStands, Tbi.removeSent, Tbi.enterHeldTick, Tbi.ownPassed, Tbi.heldEntry, Tbi.push, Tbi.receive,
      bne]

/-- The own message stands. -/
theorem Station.message_ownStands {s : Station} {k : Kind} (d : Decide) {h : Heard} {m : Message}
    {e : TxEntry} (st : Stands) (ho : s.hearsOwn k h m e) :
    s.message k d st (.whole h Slots.clear) =
      st (passedRecord k h m true .nothing) (s.onTbi Tbi.ownPassed) := by
  have hrec := ho.1.2.2
  simp only [Station.message, hrec, Option.isSome_none, Station.hear_own d ho]
  have := Station.verdict_passed (s := s.onTbi (Tbi.receive (passedRecord k h m true .nothing)))
    (r := passedRecord k h m true .nothing) st Slots.clear rfl rfl rfl
  refine this.trans ?_
  simp only [slotsClear_clear, if_true, passedRecord]
  rw [Station.onTbi_onTbi, Station.onTbi_onTbi]
  congr 1
  exact Station.onTbi_congr (Tbi.ownStands_receive _ _ hrec)

/-- The own message is void, undamaged as this station heard it. -/
theorem Station.message_ownVoid {s : Station} {k : Kind} (d : Decide) {h : Heard} {m : Message}
    {e : TxEntry} (st : Stands) {v : Slots} (ho : s.hearsOwn k h m e) (hv : slotsClear v = false) :
    s.message k d st (.whole h v) = (s.onTbi Tbi.passedBy).ownVoid v.damage := by
  have hrec := ho.1.2.2
  simp only [Station.message, hrec, Option.isSome_none, Station.hear_own d ho]
  have := Station.verdict_passed (s := s.onTbi (Tbi.receive (passedRecord k h m true .nothing)))
    (r := passedRecord k h m true .nothing) st v rfl rfl rfl
  refine this.trans ?_
  rw [Station.receive_over hrec]
  simp [hv, passedRecord]

/-- What a station keeps of a message that it found damaged. -/
def damagedRecord (code : Byte) (h : Heard) (own : Bool) : Receiving :=
  { code, sender := wordParty h.word, message := none, own, refused := false, aside := .nothing }

/-- The verdict of a message that this station found damaged: it is void, and counted (R5). -/
theorem Station.verdict_damaged {s : Station} (hrec : s.tbi.receiving = none) (code : Byte) (h : Heard)
    (st : Stands) (v : Slots) :
    (s.hearDamaged code h).verdict code st v =
      if s.tbi.sending.isSome then ((s.count .damageMarked).onTbi Tbi.passedBy).ownVoid true
      else (s.count .damageMarked).onTbi Tbi.passedBy := by
  have ended := Station.receive_over (s := s.count .damageMarked) hrec
    (damagedRecord code h s.tbi.sending.isSome)
  rw [← ended]
  have marked (k : Slots) : (damagedRecord code h s.tbi.sending.isSome).slots s.number k =
      { refusals := k.refusals, damage := true } := by
    simp [Receiving.slots, damagedRecord]
  cases hs : s.tbi.sending.isSome <;>
    simp_all [Station.verdict, Station.hearDamaged, Tbi.receive, damagedRecord, Station.closeReceiving,
      Station.onTbi, Station.count, Station.number, slotsClear]

/-- A message that this station found damaged, given whole. -/
theorem Station.message_damaged {s : Station} {k : Kind} (d : Decide) {h : Heard} (st : Stands) (v : Slots)
    (ht : s.takes) (hr : readMessage k h = none) :
    s.message k d st (.whole h v) =
      if s.tbi.sending.isSome then ((s.count .damageMarked).onTbi Tbi.passedBy).ownVoid true
      else (s.count .damageMarked).onTbi Tbi.passedBy := by
  simp only [Station.message, ht.2.2, Option.isSome_none, Station.hear_damaged ht d hr]
  exact Station.verdict_damaged ht.2.2 ..

/-- A message of an unknown kind, given whole. -/
theorem Station.unknownMessage_whole {s : Station} {code : Byte} {h : Heard} (v : Slots) (ht : s.takes) :
    s.unknownMessage code (.whole h v) =
      if s.tbi.sending.isSome then ((s.count .damageMarked).onTbi Tbi.passedBy).ownVoid true
      else (s.count .damageMarked).onTbi Tbi.passedBy := by
  simp only [Station.unknownMessage, ht.2.2, Option.isSome_none, Station.hearUnknown,
    Tbi.canHear_of_takes ht, if_true, if_false, Bool.false_eq_true]
  exact Station.verdict_damaged ht.2.2 ..

end Sys2Proof.Machine
end

