-- ==== Sys2Proof/Certificates/Slice0/Obligations.lean ====
section
/-! DEFINITION. The statements for the provers: the machine, its reset, the bus, membership, frames, writes,
the tile memory, the panel, readback, status, and the invariants. -/

open Sys2Proof Sys2Proof.Machine

/-! ## The machine and its reset -/

/-- A step takes the command at the front of the queue and runs it with the queue's rest. -/
def Obligations.StepRunsTheFrontCommand : Prop :=
  ∀ (c : Instr) (rest : List Instr) (s : State), s.pending = c :: rest →
    step s = exec c { s with pending := rest }

/-- MODEL'S CHOICE (log 9, log 10). On an empty queue a tenth of a microsecond passes for the three
timers and nothing else moves but the free-value counter; an expiry that has come joins the queue. -/
def Obligations.IdleStepMovesOnlyTheTimers : Prop :=
  ∀ s : State, s.pending = [] →
    (s.resetAsserted = true → step s = .next s) ∧
    (s.resetAsserted = false → ∃ t, step s = .next t ∧
      t.scn = { s.scn with
        syncWatch := min (s.scn.syncWatch + 1) 250005
        freeRunTimer := s.scn.freeRunTimer.map fun n => n - 1 } ∧
      t.mar = { s.mar with timer := s.mar.timer - 1 } ∧
      (∀ b, b ∉ [Block.scn, .mar, .free] → b.same s.toStation t.toStation) ∧
      (Instr.memoryRefreshExpiry ∈ t.pending ↔ s.mar.timer ≤ 1) ∧
      (Instr.syncLost ∈ t.pending ↔ s.scn.freeRun = false ∧ 250004 ≤ s.scn.syncWatch) ∧
      (Instr.freeRunExpiry ∈ t.pending ↔
        ¬(s.scn.freeRun = false ∧ 250004 ≤ s.scn.syncWatch) ∧
          ∃ n, s.scn.freeRunTimer = some n ∧ n ≤ 1) ∧
      ∀ c ∈ t.pending, c = .memoryRefreshExpiry ∨ c = .syncLost ∨ c = .freeRunExpiry)

/-- RESET_ASSERT: the bus is not driven, the burst in flight is abandoned with each byte it wrote old or
new, the panel is black, and nothing else moves, which for what the manual gives at the release alone is the
MODEL'S CHOICE (log 38). While RESET# is asserted every command but the release leaves the station as it is,
which is the MODEL'S CHOICE too (log 18). -/
def Obligations.ResetAssertStopsTheStation : Prop :=
  (∀ (c : Instr) (s : State), s.resetAsserted = true →
    (∀ pins busy, c ≠ .resetRelease pins busy) → exec c s = .next s) ∧
  ∀ s : State, s.resetAsserted = false → Memory.wf s.mem = true →
    ∃ t, exec .resetAssert s = .next t ∧
      t.resetAsserted = true ∧
      t.tbi = { s.tbi with contending := false, sending := none, receiving := none } ∧
      t.mar = { s.mar with burst := none } ∧
      t.scn = { s.scn with panel := .black } ∧
      (∀ a, Memory.read t.mem a = Memory.read s.mem a ∨
        ∃ b, s.mar.burst = some b ∧ Memory.read t.mem a = Memory.read (b.work.write s.mem) a) ∧
      (∀ a, (∀ b sp, s.mar.burst = some b → b.work.written = some sp →
          a < pixelAddr sp.buffer sp.line sp.col ∨
          pixelAddr sp.buffer sp.line sp.col + 4 * sp.count ≤ a) →
        Memory.read t.mem a = Memory.read s.mem a) ∧
      SameBut [.reset, .tbi, .mar, .scn, .mem, .free] s t

/-- RESET_RELEASE while RESET# is asserted: the straps are latched from the pins and every block starts
in its reset state; the tile memory is not written. A release with none asserted before it acts as an
assertion and then a release (MODEL'S CHOICE, log 18). -/
def Obligations.ResetReleaseLatchesAndStartsEveryBlock : Prop :=
  ∀ (pins : BitVec 17) (busy : Bool) (s : State),
    (s.resetAsserted = true → ∃ t, exec (.resetRelease pins busy) s = .next t ∧
      t.resetAsserted = false ∧
      t.straps.station.toNat = pins.toNat / 4096 ∧
      t.straps.column.toNat = pins.toNat / 512 % 8 ∧
      t.straps.row.toNat = pins.toNat / 64 % 8 ∧
      t.straps.format.toNat = pins.toNat / 16 % 4 ∧
      t.straps.profile.toNat = pins.toNat / 4 % 4 ∧
      t.straps.stall.toNat = pins.toNat % 4 ∧
      t.tbi.queue = [] ∧ t.tbi.heldTick = none ∧ t.tbi.voidStreak = 0 ∧
      t.tbi.contending = false ∧ t.tbi.sending = none ∧ t.tbi.receiving = none ∧
      t.tbi.inStep = !busy ∧
      t.mbr.state = .listening ∧ (∀ x, t.mbr.entry x = RosterEntry.absent) ∧
      t.mbr.tickWatch = 0 ∧ t.mbr.retryCount = 0 ∧ t.mbr.joinWait = 0 ∧
      t.mbr.dutyHolder = none ∧ t.mbr.holderRemoved = false ∧ t.mbr.suspectOrigin = none ∧
      (∀ b, t.ftc.buffers.get b = { state := .free, frame := none, inFlight := false }) ∧
      t.ftc.records = [] ∧ t.ftc.lastOpened = none ∧ t.ftc.f0 = none ∧ t.ftc.refresh = 0 ∧
      t.inq = [] ∧ t.fie = [] ∧ t.rbe = [] ∧
      t.mar.history = [.scan, .mref, .apply, .init, .read] ∧ t.mar.debt = 0 ∧
      t.mar.burst = none ∧ t.mar.timer = 78 ∧
      t.scn.freeRun = false ∧ t.scn.syncWatch = 0 ∧ t.scn.freeRunTimer = none ∧
      t.scn.phase = .idle ∧ t.scn.output = ⟨0, 0⟩ ∧ t.scn.front = none ∧
      t.scn.fetch = some ⟨0, 0⟩ ∧ t.scn.fifo = [] ∧ t.scn.panel = .black ∧
      t.scn.taken = none ∧ (∀ c, t.stu.counters.get c = 0) ∧ t.stu.pendingReport = false ∧
      (∀ a, Memory.read t.mem a = Memory.read s.mem a) ∧ t.pending = s.pending) ∧
    (s.resetAsserted = false → ∀ t, exec .resetAssert s = .next t →
      exec (.resetRelease pins busy) s = exec (.resetRelease pins busy) t)

/-- State.reset is what a release leaves of a station whose memory lists nothing, and every invariant of
the model holds there. The low straps and the idle bus are the MODEL'S CHOICE (log 1, log 19), the
unlisted memory's value too (log 3). -/
def Obligations.StateResetIsTheStateAfterRelease : Prop :=
  (∀ s : State, s.resetAsserted = true → s.mem = [] → s.free = 0 → s.pending = [] →
    exec (.resetRelease 0 false) s = .next State.reset) ∧
  State.reset.Sound

/-- Every command answers a next state and leaves the queue of the others as it is; the latched straps
change at a release of RESET# and at no other command. -/
def Obligations.CommandsKeepTheQueueAndTheStraps : Prop :=
  ∀ (c : Instr) (s : State), ∃ t, exec c s = .next t ∧ t.pending = s.pending ∧
    ((∀ pins busy, c ≠ .resetRelease pins busy) → t.straps = s.straps)

/-! ## The bus -/

/-- BUS_IDLE: an empty queue contends with nothing; a current offer is kept; otherwise the oldest entry
of the lowest class becomes the current offer. -/
def Obligations.BusIdleChoosesTheOffer : Prop :=
  ∀ s : State, s.resetAsserted = false → s.tbi.receiving = none → s.tbi.sending = none →
    ∃ t, exec .busIdle s = .next t ∧
      t.tbi.contending = (!s.tbi.queue.isEmpty) ∧
      t.tbi = { s.tbi with queue := t.tbi.queue, contending := t.tbi.contending, inStep := true } ∧
      ((∃ e ∈ s.tbi.queue, e.status = .offer) → t.tbi.queue = s.tbi.queue) ∧
      ((∀ e ∈ s.tbi.queue, e.status ≠ .offer) → s.tbi.queue ≠ [] →
        ∃ before e after, s.tbi.queue = before ++ e :: after ∧
          t.tbi.queue = before ++ { e with status := .offer } :: after ∧
          (∀ d ∈ before, e.msg.kind.cls < d.msg.kind.cls) ∧
          ∀ d ∈ after, e.msg.kind.cls ≤ d.msg.kind.cls) ∧
      SameBut [.tbi] s t

/-- ARBITRATION at a station that contends with a current offer. Lost to a lower word: the offer stays and
nothing is counted. Not lost: the offer is in transmission and its message is fixed as queued, or
assembled now for a BEACON and a STATUS_REPORT; a report whose clear flag is set zeroes every counter
after its capture. -/
def Obligations.ArbitrationLosesOrSendsTheOffer : Prop :=
  ∀ (others : List Byte) (s : State) (e : TxEntry), s.resetAsserted = false →
    s.tbi.contending = true → s.tbi.queue.find? (fun d => d.status == .offer) = some e →
    ((∃ o ∈ others, o.toNat < 64 * e.msg.kind.cls + s.number) →
      ∃ t, exec (.arbitration others) s = .next t ∧
        t.tbi = { s.tbi with contending := false } ∧ SameBut [.tbi] s t) ∧
    ((∀ o ∈ others, 64 * e.msg.kind.cls + s.number ≤ o.toNat) →
      ∃ t m, exec (.arbitration others) s = .next t ∧
        t.tbi = { s.tbi with
          queue := s.tbi.queue.map fun d =>
            if d.status = .offer then { d with status := .sending } else d
          contending := false, sending := some m } ∧
        (match e.msg with
          | .tick r => m = .tick r
          | .suspect x => m = .suspect (BitVec.ofNat 8 x)
          | .join b => m = .join b
          | .leave => m = .leave
          | .ready n => m = .ready n
          | .beacon => m = .beacon s.tileByte s.ftc.refresh s.mbr.memberSet s.ftc.lastOpened
          | .readReply b => m = .readReply b
          | .statusReport q _ => m = .statusReport (BitVec.ofNat 8 q) s.report.bytes) ∧
        t.stu.pendingReport = s.stu.pendingReport ∧
        (∀ c, t.stu.counters.get c = if e.msg.clears then 0 else s.stu.counters.get c) ∧
        SameBut [.tbi, .stu] s t)

/-- The kinds, classes and sender ranges of the table of kinds, and a message of an unknown kind: the
station asserts the damage slot and counts it, and the message's verdict reaches no block. -/
def Obligations.UnknownKindIsDamaged : Prop :=
  (∀ (code w : Byte), isUnknownKind code w = true ↔
    ¬∃ row ∈ [((0x00 : Byte), 0, 0, 31), (0x01, 0, 0, 31), (0x02, 0, 0, 31), (0x03, 0, 0, 31),
      (0x04, 0, 0, 63), (0x05, 0, 0, 63), (0x06, 0, 0, 63), (0x07, 0, 0, 63), (0x40, 1, 0, 31),
      (0x41, 1, 0, 31), (0x80, 2, 0, 31), (0x81, 2, 0, 31), (0xC0, 3, 32, 63), (0xC1, 3, 32, 63),
      (0xC2, 3, 32, 63), (0xC3, 3, 32, 63), (0xC4, 3, 32, 63), (0xC5, 3, 32, 63),
      (0xC6, 3, 32, 63)],
      row.1 = code ∧ row.2.1 = w.toNat / 64 ∧ row.2.2.1 ≤ w.toNat % 64 ∧
        w.toNat % 64 ≤ row.2.2.2) ∧
  ∀ (code : Byte) (h : Heard) (v : Slots) (s : State), s.takes → s.tbi.sending = none →
    isUnknownKind code h.word = true →
    ∃ t, exec (.unknownKind code (.whole h v)) s = .next t ∧
      t.tbi = { s.tbi with contending := false } ∧
      t.stu = Stu.counted .damageMarked s.stu ∧
      SameBut [.tbi, .stu] s t

/-- A failed check code, a body of another length than stated, a class or sender range that does not fit
and a body that cannot be read each make a message damaged: no decision is made and nothing is set aside.
At its verdict another party's message reaches no block, and DAMAGE_MARKED is counted; that it is counted
there and not at the check code is R179's for an own report and the MODEL'S CHOICE for the others (log 36). -/
def Obligations.DamagedMessageIsOnlyCounted : Prop :=
  ∀ (k : Kind) (h : Heard) (v : Slots) (s : State), s.takes →
    (h.check ≠ crc ([h.word, k.code, hi8 h.len, lo8 h.len] ++ h.body) ∨
      h.body.length ≠ h.len.toNat ∨ isUnknownKind k.code h.word = true ∨ readBody k h.body = none) →
    (∃ t, exec (commandOf k (.checkCode h)) s = .next t ∧
      t.tbi = { s.tbi with
        contending := false
        receiving := some { code := k.code, sender := wordParty h.word, message := none
                            own := s.tbi.sending.isSome, refused := false, aside := .nothing } } ∧
      SameBut [.tbi] s t) ∧
    (s.tbi.sending = none → ∃ t, exec (commandOf k (.whole h v)) s = .next t ∧
      t.tbi = s.tbi.passedBy ∧ t.stu = Stu.counted .damageMarked s.stu ∧ SameBut [.tbi, .stu] s t)

/-- Another party's message that is void at the wall, after this station's decision on it: what was set
aside is given back and no block is reached. DAMAGE_MARKED is counted where this station found it damaged
(the moment is the MODEL'S CHOICE, log 36). -/
def Obligations.VoidMessageReachesNoBlock : Prop :=
  ∀ (k : Kind) (r : Receiving) (v : Slots) (s : State), s.resetAsserted = false →
    s.tbi.receiving = some r → r.code = k.code → r.own = false →
    (v.refusals ≠ 0 ∨ v.damage = true ∨ r.refused = true ∨ r.message = none) →
    ∃ t, exec (commandOf k (.verdict v)) s = .next t ∧
      t.tbi = { s.tbi with receiving := none } ∧
      t.stu = (if r.message = none then Stu.counted .damageMarked s.stu else s.stu) ∧
      SameBut [.tbi, .stu] s t

/-- A message given whole is its check code and then its verdict. -/
def Obligations.WholeMessageIsCheckCodeThenVerdict : Prop :=
  ∀ (k : Kind) (h : Heard) (v : Slots) (s t : State), s.tbi.receiving = none →
    exec (commandOf k (.checkCode h)) s = .next t →
    exec (commandOf k (.whole h v)) s = exec (commandOf k (.verdict v)) t

/-- A station that is not a MEMBER refuses no message, no station refuses its own, and no MEMBER refuses
one of the kinds that the table of refusals does not list: nothing is counted and nothing set aside. -/
def Obligations.WhatNoStationRefuses : Prop :=
  ∀ (k : Kind) (h : Heard) (m : Message) (s : State), s.takes → readMessage k h = some m →
    (s.mbr.state ≠ .member ∨ s.tbi.sending.isSome = true ∨
      k ∉ [Kind.join, .suspect, .openFrame, .closeFrame, .fill, .run, .readRequest]) →
    ∃ t, exec (commandOf k (.checkCode h)) s = .next t ∧
      t.tbi = { s.tbi with
        contending := false
        receiving := some { code := k.code, sender := wordParty h.word, message := some m
                            own := s.tbi.sending.isSome, refused := false, aside := .nothing } } ∧
      SameBut [.tbi] s t

/-- An own message is void, heard undamaged or found damaged by this station too: OWN_VOIDED is counted, and
DAMAGE_MARKED where this station marked it, and the entry is handled by its kind. READY, LEAVE, READ_REPLY
and STATUS_REPORT wait to be offered again in their places, the others leave the queue; a held TICK is
entered; the streak rises with the damage slot alone. A void SUSPECT restarts the watch that raised it and
no other watch; that its origin is then cleared is the MODEL'S CHOICE (log 14). The streak is below its
limit and the message no JOIN: the bus fault and the JOIN have statements of their own. -/
def Obligations.OwnVoidIsHandledByKind : Prop :=
  ∀ (c : Instr) (e : TxEntry) (marked damage : Bool) (s : State),
    s.ownVoids c e marked damage → e.msg.kind ≠ .join → (damage = true → s.tbi.voidStreak < 31) →
    ∃ t, exec c s = .next t ∧
      t.tbi = { s.tbi with
        queue :=
          (if e.msg.kind ∈ [Kind.ready, .leave, .readReply, .statusReport] then
            s.tbi.queue.map fun d =>
              if d.status = .sending then { d with status := .waiting } else d
          else s.tbi.queue.filter fun d => d.status != .sending) ++ s.tbi.heldEntry
        heldTick := none, sending := none, contending := false
        voidStreak := if damage then s.tbi.voidStreak + 1 else s.tbi.voidStreak } ∧
      t.stu = Stu.ownVoided marked s.stu ∧
      (e.msg.kind ≠ .suspect → t.mbr = s.mbr) ∧
      (e.msg.kind = .suspect → t.mbr = { s.mbr with
        suspectOrigin := none
        tickWatch := if s.mbr.suspectOrigin = some .tickWatch then 0 else s.mbr.tickWatch
        roster := match s.mbr.suspectOrigin with
          | some (.beaconWatch x) => s.mbr.roster.set x { s.mbr.entry x with watch := 0 }
          | _ => s.mbr.roster }) ∧
      SameBut [.tbi, .stu, .mbr] s t

/-- The own void with the damage slot that finds the streak at 31 is a bus fault: OWN_VOIDED is counted, and
DAMAGE_MARKED where this station marked the message too, and the station withdraws to LISTENING as at any
withdrawal, whatever the kind of the void message. -/
def Obligations.BusFaultWithdrawsTheStation : Prop :=
  ∀ (c : Instr) (e : TxEntry) (marked : Bool) (s : State),
    s.ownVoids c e marked true → s.tbi.voidStreak = 31 →
    ∃ t, exec c s = .next t ∧
      Withdrawn .listening { s with stu := Stu.ownVoided marked s.stu } t

/-! ## Membership -/

/-- A MEMBER refuses a JOIN for its own number, for the known tile of another MEMBER entry, or for a
differing format, and a SUSPECT of itself; it passes every other JOIN and SUSPECT. The sender of a void
SUSPECT, voided by a refusal or by damage, drops it and restarts at 0 the watch that raised it; its void
streak, below its limit, moves with the damage slot alone. -/
def Obligations.JoinAndSuspectAreRefusedOnTheirGrounds : Prop :=
  ∀ (h : Heard) (s : State), s.mbr.state = .member →
    (∀ tile, s.hearsOther .join h (.join tile) →
      ∃ t, exec (.join (.checkCode h)) s = .next t ∧
        (s.refusesJoin (wordParty h.word) tile → Refuses .joinConflict .join h (.join tile) s t) ∧
        (¬s.refusesJoin (wordParty h.word) tile → Passes .nothing .join h (.join tile) s t)) ∧
    (∀ x, s.hearsOther .suspect h (.suspect x) →
      ∃ t, exec (.suspect (.checkCode h)) s = .next t ∧
        (x.toNat = s.number → Refuses .suspectDenied .suspect h (.suspect x) s t) ∧
        (x.toNat ≠ s.number → Passes .nothing .suspect h (.suspect x) s t)) ∧
    (∀ c e marked damage x, s.ownVoids c e marked damage → e.msg = .suspect x →
      (damage = true → s.tbi.voidStreak < 31) →
      ∃ t, exec c s = .next t ∧
        t.tbi.queue = s.tbi.queue.filter (fun d => d.status != .sending) ++ s.tbi.heldEntry ∧
        t.tbi.voidStreak = (if damage then s.tbi.voidStreak + 1 else s.tbi.voidStreak) ∧
        (s.mbr.suspectOrigin = some .tickWatch → t.mbr.tickWatch = 0) ∧
        ∀ y, s.mbr.suspectOrigin = some (.beaconWatch y) → (t.mbr.entry y).watch = 0)

/-- The own JOIN stands: the station is a MEMBER with its own entry added, every watch 0, the join state
0, no duty holder and no F0. -/
def Obligations.OwnJoinAdmitsTheStation : Prop :=
  ∀ (h : Heard) (tile : Byte) (e : TxEntry) (s : State), s.hearsOwn .join h (.join tile) e →
    ∃ t, exec (.join (.whole h .clear)) s = .next t ∧
      t.tbi = s.tbi.ownPassed ∧
      t.mbr = { s.mbr with
        state := .member
        roster := (s.mbr.roster.set s.number (RosterEntry.listed (some s.tile))).map
          fun d => { d with watch := 0 }
        tickWatch := 0, retryCount := 0, joinWait := 0, dutyHolder := none
        holderRemoved := false } ∧
      t.ftc = { s.ftc with f0 := none } ∧ SameBut [.tbi, .mbr, .ftc] s t

/-- The own JOIN is void while JOINING, heard undamaged or found damaged by this station too: below the 16th
void a wait of 4 pulses starts, at the 16th the station enters REJECTED with its roster and join state
cleared and no JOIN queued. The streak is below its limit: the bus fault has a statement of its own. -/
def Obligations.VoidJoinWaitsOrRejects : Prop :=
  ∀ (c : Instr) (e : TxEntry) (marked damage : Bool) (s : State),
    s.ownVoids c e marked damage → e.msg.kind = .join → s.mbr.state = .joining →
    (damage = true → s.tbi.voidStreak < 31) →
    ∃ t, exec c s = .next t ∧
      t.mbr = (if s.mbr.retryCount < 15 then
        { s.mbr with retryCount := s.mbr.retryCount + 1, joinWait := 4 } else s.mbr.turnedAway) ∧
      t.tbi = { s.tbi with
        queue := (s.tbi.queue.filter fun d =>
          d.status != .sending && (decide (s.mbr.retryCount < 15) || d.msg.kind != .join)) ++
            s.tbi.heldEntry
        heldTick := none, sending := none, contending := false
        voidStreak := if damage then s.tbi.voidStreak + 1 else s.tbi.voidStreak } ∧
      t.stu = Stu.ownVoided marked s.stu ∧ SameBut [.tbi, .mbr, .stu] s t

/-- Another station's JOIN stands at a MEMBER: a station listed already is first taken out of every held
frame's sets, and the joiner is a MEMBER entry with the JOIN's tile and a watch of 0. A removed duty holder
is marked, listed again or not: no TICK is accepted before the next pulse (for one listed again the MODEL'S
CHOICE, log 34). -/
def Obligations.JoinIsAddedOrReadmittedAtMember : Prop :=
  ∀ (h : Heard) (tile : Byte) (s : State), s.hearsOther .join h (.join tile) →
    s.mbr.state = .member →
    ¬s.refusesJoin (wordParty h.word) tile →
    ∃ t, exec (.join (.whole h .clear)) s = .next t ∧
      t.tbi = s.tbi.passedBy ∧
      t.mbr = { s.mbr with
        roster := s.mbr.roster.set (wordParty h.word) (RosterEntry.listed (some (tileBits tile)))
        holderRemoved := s.mbr.holderRemoved || (s.mbr.isMember (wordParty h.word) &&
          s.mbr.dutyHolder == some (wordParty h.word)) } ∧
      t.ftc = (if s.mbr.isMember (wordParty h.word) then
        { s.ftc with records := s.ftc.records.map (FrameRecord.without (wordParty h.word)) }
        else s.ftc) ∧
      SameBut [.tbi, .mbr, .ftc] s t

/-- A SUSPECT of another station, this station's own or another's, or another's LEAVE stands at a MEMBER
that lists the station named: it is removed from the roster and from every held frame's sets, and a
queued SUSPECT of it is removed. Where it was the duty holder it is marked as removed, so that no TICK is
accepted before the next pulse. A MEMBER that does not list it keeps its roster and frames. -/
def Obligations.MemberRemovesALostStation : Prop :=
  ∀ (k : Kind) (h : Heard) (m : Message) (x : Nat) (before : Tbi) (s : State),
    s.mbr.state = .member → x ≠ s.number →
    ((k = .suspect ∧ (∃ b : Byte, m = .suspect b ∧ x = b.toNat) ∧
        ((s.hearsOther k h m ∧ before = s.tbi.passedBy) ∨
          ((∃ e, s.hearsOwn k h m e) ∧ before = s.tbi.ownPassed))) ∨
      (k = .leave ∧ m = .leave ∧ x = wordParty h.word ∧ s.hearsOther k h m ∧
        before = s.tbi.passedBy)) →
    ∃ t, exec (commandOf k (.whole h .clear)) s = .next t ∧
      t.mbr = { s.mbr with
        roster := t.mbr.roster, suspectOrigin := t.mbr.suspectOrigin
        holderRemoved :=
          s.mbr.holderRemoved || (s.mbr.isMember x && s.mbr.dutyHolder == some x) } ∧
      (t.mbr.suspectOrigin = s.mbr.suspectOrigin ∨ t.mbr.suspectOrigin = none) ∧
      (s.mbr.isMember x = false →
        t.mbr.roster = s.mbr.roster ∧ t.ftc = s.ftc ∧ t.tbi = before) ∧
      (s.mbr.isMember x = true →
        t.mbr.roster = s.mbr.roster.set x RosterEntry.absent ∧
        t.ftc = { s.ftc with records := s.ftc.records.map (FrameRecord.without x) } ∧
        t.tbi = { before with queue := before.queue.filter fun d =>
          d.status == .sending || d.msg != .suspect x }) ∧
      SameBut [.tbi, .mbr, .ftc] s t

/-- A JOIN, SUSPECT or LEAVE at a station that is no MEMBER. LISTENING: the tentative roster follows.
JOINING: it follows, and a clash with the straps leads to REJECTED with an empty roster and no JOIN
queued. IDLE_OUT and REJECTED: nothing. A SUSPECT or LEAVE of a station that the roster lists as ABSENT, and
any of the two in IDLE_OUT or REJECTED, changes nothing. -/
def Obligations.TentativeRosterFollowsTheBus : Prop :=
  (∀ (k : Kind) (h : Heard) (m : Message) (x : Nat) (s : State), s.hearsOther k h m →
    (k = .suspect ∧ (∃ b : Byte, m = .suspect b ∧ x = b.toNat)) ∨
      (k = .leave ∧ m = .leave ∧ x = wordParty h.word) →
    s.mbr.state = .idleOut ∨ s.mbr.state = .rejected ∨
      (s.mbr.state ≠ .member ∧ s.mbr.isMember x = false) →
    ∃ t, exec (commandOf k (.whole h .clear)) s = .next t ∧ t.tbi = s.tbi.passedBy ∧
      SameBut [.tbi] s t) ∧
  ∀ (k : Kind) (h : Heard) (m : Message) (x : Nat) (entry : RosterEntry) (s : State),
    s.hearsOther k h m →
    ((k = .join ∧ ∃ b : Byte, m = .join b ∧ x = wordParty h.word ∧
        entry = (RosterEntry.listed (some (tileBits b)))) ∨
      (s.mbr.isMember x = true ∧ entry = RosterEntry.absent ∧
        ((k = .suspect ∧ ∃ b : Byte, m = .suspect b ∧ x = b.toNat) ∨
          (k = .leave ∧ m = .leave ∧ x = wordParty h.word)))) →
    s.mbr.state ≠ .member →
    ∃ t, exec (commandOf k (.whole h .clear)) s = .next t ∧
      (s.mbr.state = .listening ∨
          (s.mbr.state = .joining ∧ ¬s.clashes (s.mbr.roster.set x entry)) →
        t.mbr = { s.mbr with roster := s.mbr.roster.set x entry } ∧ t.tbi = s.tbi.passedBy ∧
        SameBut [.tbi, .mbr] s t) ∧
      (s.mbr.state = .joining → s.clashes (s.mbr.roster.set x entry) →
        t.mbr = s.mbr.turnedAway ∧
        t.tbi = { s.tbi.passedBy with queue := s.tbi.queue.filter fun d =>
          d.status == .sending || d.msg.kind != .join } ∧
        SameBut [.tbi, .mbr] s t) ∧
      (s.mbr.state = .idleOut ∨ s.mbr.state = .rejected →
        t.tbi = s.tbi.passedBy ∧ SameBut [.tbi] s t)

/-- WALL_RESET withdraws every station to LISTENING; the own standing LEAVE withdraws its sender to
IDLE_OUT. -/
def Obligations.WallResetAndOwnLeaveWithdraw : Prop :=
  (∀ (h : Heard) (s : State), s.hearsOther .wallReset h .wallReset →
    ∃ t, exec (.wallReset (.whole h .clear)) s = .next t ∧ Withdrawn .listening s t) ∧
  (∀ (h : Heard) (e : TxEntry) (s : State), s.hearsOwn .leave h .leave e →
    ∃ t, exec (.leave (.whole h .clear)) s = .next t ∧ Withdrawn .idleOut s t)

/-- ORDER_LEAVE naming this MEMBER queues a LEAVE, unless one is queued already; at any other station it
changes nothing. -/
def Obligations.OrderLeaveQueuesALeave : Prop :=
  ∀ (h : Heard) (x : Byte) (s : State), s.hearsOther .orderLeave h (.orderLeave x) →
    ∃ t, exec (.orderLeave (.whole h .clear)) s = .next t ∧
      t.tbi = { s.tbi.passedBy with queue :=
        if x.toNat = s.number ∧ s.mbr.state = .member ∧ ∀ d ∈ s.tbi.queue, d.msg ≠ .leave then
          s.tbi.queue ++ [⟨.leave, .waiting⟩]
        else s.tbi.queue } ∧
      SameBut [.tbi] s t

/-- ORDER_REJOIN naming this station in IDLE_OUT or REJECTED: LISTENING with an empty roster and no join
state, which is no withdrawal and leaves the held image and every counter; anywhere else nothing. -/
def Obligations.OrderRejoinReturnsTheStationToListening : Prop :=
  ∀ (h : Heard) (x : Byte) (s : State), s.hearsOther .orderRejoin h (.orderRejoin x) →
    ∃ t, exec (.orderRejoin (.whole h .clear)) s = .next t ∧
      t.tbi = s.tbi.passedBy ∧
      (x.toNat = s.number → s.mbr.state = .idleOut ∨ s.mbr.state = .rejected →
        t.mbr = { s.mbr with
          state := .listening, roster := List.replicate 32 RosterEntry.absent, tickWatch := 0
          retryCount := 0, joinWait := 0 }) ∧
      (x.toNat ≠ s.number ∨ s.mbr.state = .listening ∨ s.mbr.state = .joining ∨
          s.mbr.state = .member →
        t.mbr = s.mbr) ∧
      t.ftc.heldImage = s.ftc.heldImage ∧ SameBut [.tbi, .mbr] s t

/-- BEACON at a MEMBER: a listed sender other than the station itself has its watch at 0 and its tile
recorded; every other BEACON changes nothing, the own one only leaves the queue. -/
def Obligations.BeaconAtMemberResetsTheWatch : Prop :=
  ∀ (h : Heard) (b : Byte) (r : Refresh) (ms : StationSet) (l : Option FrameNo) (s : State),
    s.mbr.state = .member →
    (s.hearsOther .beacon h (.beacon b r ms l) →
      ∃ t, exec (.beacon (.whole h .clear)) s = .next t ∧ t.tbi = s.tbi.passedBy ∧
        (wordParty h.word ≠ s.number ∧ s.mbr.isMember (wordParty h.word) = true →
          t.mbr = { s.mbr with
            roster := s.mbr.roster.set (wordParty h.word) (RosterEntry.listed (some (tileBits b))) }) ∧
        (wordParty h.word = s.number ∨ s.mbr.isMember (wordParty h.word) = false →
          t.mbr = s.mbr) ∧
        SameBut [.tbi, .mbr] s t) ∧
    (∀ e, s.hearsOwn .beacon h (.beacon b r ms l) e → wordParty h.word = s.number →
      ∃ t, exec (.beacon (.whole h .clear)) s = .next t ∧ t.tbi = s.tbi.ownPassed ∧
        SameBut [.tbi] s t)

/-- BEACON at a listener or a joiner: its member set but for the own number, and its sender with its
tile, are the roster; its last opened frame is taken when present. A clash leads to REJECTED; without
one a listener enters JOINING and queues its JOIN, a joiner goes on. -/
def Obligations.BeaconIsAdoptedBeforeMembership : Prop :=
  ∀ (h : Heard) (b : Byte) (r : Refresh) (ms : StationSet) (l : Option FrameNo) (s : State)
    (roster : List RosterEntry),
    s.hearsOther .beacon h (.beacon b r ms l) →
    s.mbr.state = .listening ∨ s.mbr.state = .joining →
    roster.length = s.mbr.roster.length →
    (∀ (x : Nat) (e : RosterEntry), s.mbr.roster[x]? = some e → roster[x]? = some
      (if x = wordParty h.word then
        (RosterEntry.listed (some (tileBits b)))
      else if ms.getLsbD x = true ∧ x ≠ s.number then
        RosterEntry.listed e.tile
      else RosterEntry.absent)) →
    ∃ t, exec (.beacon (.whole h .clear)) s = .next t ∧
      t.ftc = { s.ftc with lastOpened := match l with | some n => some n | none => s.ftc.lastOpened } ∧
      (s.clashes roster →
        t.mbr = s.mbr.turnedAway ∧
        ∀ d ∈ t.tbi.queue, d.status ≠ .sending → d.msg.kind ≠ .join) ∧
      (¬s.clashes roster → s.mbr.state = .listening →
        t.mbr = { s.mbr with
          state := .joining, roster := roster, tickWatch := 0, retryCount := 0, joinWait := 0 } ∧
        t.tbi = { s.tbi.passedBy with queue :=
          if ∀ d ∈ s.tbi.queue, d.msg.kind ≠ .join then
            s.tbi.queue ++ [⟨.join s.tileByte, .waiting⟩]
          else s.tbi.queue }) ∧
      (¬s.clashes roster → s.mbr.state = .joining →
        t.mbr = { s.mbr with roster := roster } ∧ t.tbi = s.tbi.passedBy) ∧
      SameBut [.tbi, .mbr, .ftc] s t

/-- TICK where it is not accepted, another party's or the station's own: a listener and a joiner take its count, a listener also sets its tick
watch to 0; a MEMBER ignores one that is not its duty holder's, its own after the duty has passed to another
included, and every one from the removal of its duty holder to the next pulse; IDLE_OUT and REJECTED ignore
all. -/
def Obligations.TickOutsideTheDuty : Prop :=
  ∀ (h : Heard) (n : Refresh) (before : Tbi) (s : State),
    ((s.hearsOther .tick h (.tick n) ∧ before = s.tbi.passedBy) ∨
      (∃ e, s.hearsOwn .tick h (.tick n) e ∧ before = s.tbi.ownPassed)) →
    (s.mbr.state = .member →
      s.mbr.dutyHolder ≠ some (wordParty h.word) ∨ s.mbr.holderRemoved = true) →
    ∃ t, exec (.tick (.whole h .clear)) s = .next t ∧ t.tbi = before ∧
      t.mbr = (if s.mbr.state = .listening then { s.mbr with tickWatch := 0 } else s.mbr) ∧
      t.ftc = (if s.mbr.state = .listening ∨ s.mbr.state = .joining then
        { s.ftc with refresh := n } else s.ftc) ∧
      SameBut [.tbi, .mbr, .ftc] s t

/-- TICK accepted by a MEMBER from its duty holder, itself or another, not removed since the last pulse: the
tick watch is 0, the count is kept when it is n or n + 1 and set to n otherwise, with COUNT_SLIP counted and
a COMMITTED record's show refresh set to n + 1. The oldest READY record is committed when its barrier is complete, its
predecessor has committed or is not held and nothing else is COMMITTED; its show refresh is one more
than the count, LATE_SHOW counted when the TICK is late. A BEACON is queued in the station's slot, and
then the READY of a DRAINED successor of the committed frame. -/
def Obligations.AcceptedTickComparesCommitsAndOpensTheSlot : Prop :=
  ∀ (h : Heard) (n : Refresh) (s : State) (before : Tbi),
    s.mbr.state = .member → s.mbr.dutyHolder = some (wordParty h.word) →
    s.mbr.holderRemoved = false →
    ((s.hearsOther .tick h (.tick n) ∧ before = s.tbi.passedBy) ∨
      (∃ e, s.hearsOwn .tick h (.tick n) e ∧ before = s.tbi.ownPassed)) →
    ∃ (t : State) (f : Ftc) (slot ready : List TxEntry),
      exec (.tick (.whole h .clear)) s = .next t ∧
      (s.ftc.refresh = n ∨ s.ftc.refresh = n + 1 → f = s.ftc) ∧
      (s.ftc.refresh ≠ n → s.ftc.refresh ≠ n + 1 → f = { s.ftc with
        refresh := n
        records := s.ftc.records.map fun x =>
          if x.state = .committed then { x with showRefresh := some (n + 1) } else x }) ∧
      t.mbr = { s.mbr with tickWatch := 0 } ∧
      t.tbi = { before with queue := before.queue ++ slot ++ ready } ∧
      (n.toNat % 8 = s.number % 8 → (∀ d ∈ before.queue, d.msg ≠ .beacon) →
        slot = [⟨.beacon, .waiting⟩]) ∧
      (n.toNat % 8 ≠ s.number % 8 ∨ (∃ d ∈ before.queue, d.msg = .beacon) → slot = []) ∧
      ((∀ x, ¬f.commits x) → t.ftc = f ∧ ready = []) ∧
      (∀ x, f.commits x →
        t.ftc = { f with records := f.records.map fun y =>
          if y.frame = x.frame then
            { y with state := .committed, showRefresh := some (f.refresh + 1) }
          else y } ∧
        ((∃ y, f.find (x.frame + 1) = some y ∧ y.state = .drained) →
          (∀ d ∈ before.queue, d.msg ≠ .ready (x.frame + 1)) →
          ready = [⟨.ready (x.frame + 1), .waiting⟩]) ∧
        ((∀ y, f.find (x.frame + 1) = some y → y.state ≠ .drained) ∨
          (∃ d ∈ before.queue, d.msg = .ready (x.frame + 1)) → ready = [])) ∧
      (∀ c, c ≠ .countSlip → c ≠ .lateShow → t.stu.counters.get c = s.stu.counters.get c) ∧
      t.stu.counters.get .countSlip =
        (if s.ftc.refresh ≠ n ∧ s.ftc.refresh ≠ n + 1 then
          saturate (s.stu.counters.get .countSlip) else s.stu.counters.get .countSlip) ∧
      (s.ftc.refresh = n + 1 ∧ (∃ x, f.commits x) →
        t.stu.counters.get .lateShow = saturate (s.stu.counters.get .lateShow)) ∧
      (s.ftc.refresh ≠ n + 1 ∨ (∀ x, ¬f.commits x) →
        t.stu.counters.get .lateShow = s.stu.counters.get .lateShow) ∧
      t.stu.pendingReport = s.stu.pendingReport ∧
      SameBut [.tbi, .mbr, .ftc, .stu] s t

/-! ## Frames -/

/-- A MEMBER tries the four conditions of an OPEN in order and refuses on the first that fails; an OPEN
that meets them is passed with nothing set aside. -/
def Obligations.OpenIsAdmittedOnFourConditions : Prop :=
  ∀ (h : Heard) (n : FrameNo) (mode : Byte) (colour : Option Pixel) (src : PartySet) (s : State),
    s.hearsOther .openFrame h (.openFrame n mode colour src) → s.mbr.state = .member →
    ∃ t, exec (.openFrame (.checkCode h)) s = .next t ∧
      ((∃ l, s.ftc.lastOpened = some l ∧ n ≠ l + 1) →
        Refuses .frameState .openFrame h (.openFrame n mode colour src) s t) ∧
      ((∀ l, s.ftc.lastOpened = some l → n = l + 1) →
        (2 ≤ s.ftc.records.countP (fun r => r.state != .shown && r.state != .retiring) →
          Refuses .frameAhead .openFrame h (.openFrame n mode colour src) s t) ∧
        (s.ftc.records.countP (fun r => r.state != .shown && r.state != .retiring) < 2 →
          ((∀ b, (s.ftc.buffers.get b).state ≠ .free) →
            Refuses .noBuffer .openFrame h (.openFrame n mode colour src) s t) ∧
          (∀ b, (s.ftc.buffers.get b).state = .free →
            (2 < mode.toNat ∨ src = 0 ∨ (∃ i < 32, src.getLsbD i = true) →
              Refuses .badField .openFrame h (.openFrame n mode colour src) s t) ∧
            (mode.toNat ≤ 2 → src ≠ 0 → (∀ i < 32, src.getLsbD i = false) →
              Passes .nothing .openFrame h (.openFrame n mode colour src) s t))))

/-- OPEN(N) stands at a MEMBER with a FREE buffer and no record of N: the lowest FREE buffer is bound,
the youngest record is made with its first values (FILLING for KEEP, INIT otherwise), the last opened
frame is N and F0 is N if it was unset. The records held before are unchanged in every field but the pin
count of the predecessor, which rises by 1 where its copy for a SEED begins. At a station that is no MEMBER
the last opened frame moves, and nothing else. -/
def Obligations.OpenBindsABufferAndMakesTheRecord : Prop :=
  (∀ (h : Heard) (n : FrameNo) (mode : Byte) (colour : Option Pixel) (src : PartySet) (s : State),
    s.hearsOther .openFrame h (.openFrame n mode colour src) → s.mbr.state ≠ .member →
    ∃ t, exec (.openFrame (.whole h .clear)) s = .next t ∧ t.tbi = s.tbi.passedBy ∧
      t.ftc = { s.ftc with lastOpened := some n } ∧ SameBut [.tbi, .ftc] s t) ∧
  ∀ (h : Heard) (n : FrameNo) (mode : Byte) (colour : Option Pixel) (src : PartySet) (b : Buf)
    (s : State),
    s.hearsOther .openFrame h (.openFrame n mode colour src) → s.MayOpen n mode src b →
    ∃ (t : State) (r : FrameRecord) (old : List FrameRecord),
      exec (.openFrame (.whole h .clear)) s = .next t ∧
      t.tbi = s.tbi.passedBy ∧
      t.ftc.lastOpened = some n ∧
      t.ftc.f0 = (match s.ftc.f0 with | some f => some f | none => some n) ∧
      t.ftc.refresh = s.ftc.refresh ∧
      t.ftc.buffers.get b =
        { state := .bound, frame := some n, inFlight := (s.ftc.buffers.get b).inFlight } ∧
      (∀ c, c ≠ b → t.ftc.buffers.get c = s.ftc.buffers.get c) ∧
      t.ftc.records = old ++ [r] ∧
      old.map (fun x => { x with pins := 0 }) = s.ftc.records.map (fun x => { x with pins := 0 }) ∧
      ((∀ j rest, s.fie = j :: rest → j.phase ≠ .queued) → old = s.ftc.records.map fun x =>
        if mode = 1 ∧ s.copyStarts n = true ∧ x.frame = n - 1 then { x with pins := x.pins + 1 }
        else x) ∧
      r = { frame := n, buffer := b
            state := if mode = 2 then .filling else .init
            mode := if mode = 0 then .clear else if mode = 1 then .seed else .keep
            colour := if mode = 0 then colour else none
            requiredSources := src, closedSources := 0
            requiredStations := s.mbr.memberSet, readyStations := 0
            pending := 0, pins := 0, showRefresh := none, stallCount := 0, stalled := false } ∧
      SameBut [.tbi, .ftc, .fie, .stu] s t

/-- What OPEN(N) starts at a MEMBER. CLEAR: a FILL job of the colour. SEED with no predecessor held: a
FILL job of colour 0, with SEED_MISSING counted. SEED with a predecessor: a COPY job. KEEP: no job. On
an empty list a FILL job is RUNNING, a COPY job copies from a drained predecessor, which is pinned, and
waits for any other; behind another job it is QUEUED. -/
def Obligations.OpenStartsTheInitialisation : Prop :=
  ∀ (h : Heard) (n : FrameNo) (mode : Byte) (colour : Option Pixel) (src : PartySet) (b : Buf)
    (s : State),
    s.hearsOther .openFrame h (.openFrame n mode colour src) → s.MayOpen n mode src b →
    (∀ j rest, s.fie = j :: rest → j.phase ≠ .queued) →
    ∃ t, exec (.openFrame (.whole h .clear)) s = .next t ∧
      (mode = 2 → t.fie = s.fie ∧ t.stu = s.stu) ∧
      (∀ c, mode = 0 → colour = some c → t.stu = s.stu ∧ t.fie = s.fie ++
        [InitJob.made n (.fill c) b none (if s.fie.isEmpty then .running else .queued)]) ∧
      (mode = 1 → s.ftc.find (n - 1) = none →
        t.stu = Stu.counted .seedMissing s.stu ∧ t.fie = s.fie ++
          [InitJob.made n (.fill ⟨0, 0, 0, 0⟩) b none
            (if s.fie.isEmpty then .running else .queued)]) ∧
      (∀ p, mode = 1 → s.ftc.find (n - 1) = some p → t.stu = s.stu ∧
        (s.fie ≠ [] → t.fie = s.fie ++ [InitJob.made n .copy b none .queued]) ∧
        (s.fie = [] → p.state = .init ∨ p.state = .filling ∨ p.state = .sealed →
          t.fie = [InitJob.made n .copy b none .waiting]) ∧
        (s.fie = [] → p.state ≠ .init → p.state ≠ .filling → p.state ≠ .sealed →
          t.fie = [InitJob.made n .copy b (some p.buffer) .running] ∧
          t.ftc.find (n - 1) = some { p with pins := p.pins + 1 }))

/-- A MEMBER's decision on a CLOSE: the F0 test for a frame it does not hold, then the frame's state, then
the sender among the required sources and not among the closed ones. -/
def Obligations.CloseIsAdmittedFromAnOpenSource : Prop :=
  ∀ (h : Heard) (n : FrameNo) (s : State), s.hearsOther .closeFrame h (.closeFrame n) →
    s.mbr.state = .member →
    ∃ t, exec (.closeFrame (.checkCode h)) s = .next t ∧
      (s.ftc.find n = none →
        (∀ f, s.ftc.f0 = some f → n ≠ f - 1 → n ≠ f - 2 →
          Refuses .frameState .closeFrame h (.closeFrame n) s t) ∧
        (s.ftc.f0 = none ∨ s.ftc.f0 = some (n + 1) ∨ s.ftc.f0 = some (n + 2) →
          Passes .nothing .closeFrame h (.closeFrame n) s t)) ∧
      (∀ r, s.ftc.find n = some r →
        (r.state ≠ .init ∧ r.state ≠ .filling →
          Refuses .frameState .closeFrame h (.closeFrame n) s t) ∧
        (r.state = .init ∨ r.state = .filling →
          (r.requiredSources.getLsbD (wordParty h.word) = false ∨
              r.closedSources.getLsbD (wordParty h.word) = true →
            Refuses .sourceState .closeFrame h (.closeFrame n) s t) ∧
          (r.requiredSources.getLsbD (wordParty h.word) = true →
            r.closedSources.getLsbD (wordParty h.word) = false →
            Passes .nothing .closeFrame h (.closeFrame n) s t)))

/-- CLOSE(N) stands at a MEMBER that holds N open: the sender is a closed source. A record so sealed goes
from FILLING to SEALED with records pending and to DRAINED without; in INIT it stays. At DRAINED its
READY is queued when its predecessor is not held or has committed, and a COPY job that waits for it
begins. A MEMBER that does not hold N is unchanged, and so is a station in any other state. -/
def Obligations.CloseSealsTheRecord : Prop :=
  ∀ (h : Heard) (n : FrameNo) (s : State), s.hearsOther .closeFrame h (.closeFrame n) →
    (s.mbr.state ≠ .member →
      ∃ t, exec (.closeFrame (.whole h .clear)) s = .next t ∧ t.tbi = s.tbi.passedBy ∧
        SameBut [.tbi] s t) ∧
    (s.mbr.state = .member → s.ftc.find n = none →
      (s.ftc.f0 = none ∨ s.ftc.f0 = some (n + 1) ∨ s.ftc.f0 = some (n + 2)) →
      ∃ t, exec (.closeFrame (.whole h .clear)) s = .next t ∧ t.tbi = s.tbi.passedBy ∧
        SameBut [.tbi] s t) ∧
    (∀ r, s.mbr.state = .member → s.ftc.find n = some r → r.state = .init ∨ r.state = .filling →
      r.requiredSources.getLsbD (wordParty h.word) = true →
      r.closedSources.getLsbD (wordParty h.word) = false →
      ∃ t r', exec (.closeFrame (.whole h .clear)) s = .next t ∧ t.ftc.find n = some r' ∧
        r'.closedSources = r.closedSources ||| (1#64 <<< wordParty h.word) ∧
        r' = { r with
          closedSources := r'.closedSources, state := r'.state, pins := r'.pins } ∧
        (t.fie = s.fie → r'.pins = r.pins) ∧ (t.fie ≠ s.fie → r'.pins = r.pins + 1) ∧
        r'.state =
          (if r.state = .filling ∧ r'.closedSources = r.requiredSources then
            (if 0 < r.pending then .sealed else .drained)
          else r.state) ∧
        t.tbi = { s.tbi.passedBy with queue := s.tbi.queue ++
          (if r'.state = .drained ∧ s.ftc.predecessorCommitted n = true ∧
              s.tbi.queue.all (fun d => d.msg != .ready n) = true then
            [⟨.ready n, .waiting⟩] else []) } ∧
        t.fie = (match s.fie with
          | j :: js =>
            if r'.state = .drained ∧ j.work = .copy ∧ j.phase = .waiting ∧ j.frame = n + 1 then
              { j with source := some r.buffer, phase := .running } :: js
            else s.fie
          | [] => []) ∧
        (∀ f, f ≠ n → t.ftc.find f = s.ftc.find f) ∧
        t.ftc.buffers = s.ftc.buffers ∧ t.ftc.lastOpened = s.ftc.lastOpened ∧
        t.ftc.f0 = s.ftc.f0 ∧ t.ftc.refresh = s.ftc.refresh ∧
        SameBut [.tbi, .ftc, .fie] s t)

/-- DROP of a party stands: at a MEMBER a party of 32 to 63 leaves the source sets of every record in
INIT or FILLING, and a record so sealed in FILLING goes to SEALED with records pending and to DRAINED
without. For each record so drained, in the order of the records, its READY is queued when its predecessor
is not held or has committed, and a COPY job that waits for it begins and pins it; nothing else is queued
and no other job moves. Any other party, and any other station, changes nothing. -/
def Obligations.DropRemovesTheSourceFromOpenRecords : Prop :=
  ∀ (h : Heard) (p : Byte) (s : State), s.hearsOther .drop h (.drop p) →
    ∃ (t : State) (drained : List FrameNo), exec (.drop (.whole h .clear)) s = .next t ∧
      (s.mbr.state ≠ .member ∨ p.toNat < 32 ∨ 63 < p.toNat →
        t.tbi = s.tbi.passedBy ∧ SameBut [.tbi] s t) ∧
      (s.mbr.state = .member → 32 ≤ p.toNat → p.toNat ≤ 63 →
        drained.Nodup ∧ drained.Sublist (s.ftc.records.map fun r => r.frame) ∧
        (∀ n, n ∈ drained ↔ ∃ r, s.ftc.find n = some r ∧ r.state = .filling ∧ r.pending = 0 ∧
          r.closedSources &&& ~~~(1#64 <<< p.toNat) = r.requiredSources &&& ~~~(1#64 <<< p.toNat)) ∧
        t.tbi = { s.tbi.passedBy with
          queue := s.tbi.queue ++ drained.flatMap s.readyEntry } ∧
        ((∀ n ∈ drained, s.copyWaits n = false) → t.fie = s.fie) ∧
        (∀ n r, n ∈ drained → s.copyWaits n = true → s.ftc.find n = some r →
          t.fie = copyBegun r.buffer s.fie) ∧
        ∀ n r, s.ftc.find n = some r →
          ∃ r', t.ftc.find n = some r' ∧
            r' = { r with
              requiredSources := r'.requiredSources, closedSources := r'.closedSources
              state := r'.state
              pins := if n ∈ drained ∧ s.copyWaits n = true then r.pins + 1 else r.pins } ∧
            (r.state = .init ∨ r.state = .filling →
              r'.requiredSources = r.requiredSources &&& ~~~(1#64 <<< p.toNat) ∧
              r'.closedSources = r.closedSources &&& ~~~(1#64 <<< p.toNat) ∧
              r'.state =
                (if r.state = .filling ∧ r'.closedSources = r'.requiredSources then
                  (if 0 < r.pending then .sealed else .drained)
                else r.state)) ∧
            (r.state ≠ .init → r.state ≠ .filling →
              r'.requiredSources = r.requiredSources ∧ r'.closedSources = r.closedSources ∧
              r'.state = r.state)) ∧
      t.ftc.buffers = s.ftc.buffers ∧ t.ftc.lastOpened = s.ftc.lastOpened ∧
      t.ftc.f0 = s.ftc.f0 ∧ t.ftc.refresh = s.ftc.refresh ∧
      SameBut [.tbi, .ftc, .fie] s t

/-- READY(N) stands. At a MEMBER a required sender joins the ready stations of the record of N, whatever
its state; the own READY also moves a DRAINED record to READY and leaves the queue. Without the record,
from a station not required or at no MEMBER it changes nothing. -/
def Obligations.ReadyJoinsTheReadyStations : Prop :=
  ∀ (h : Heard) (n : FrameNo) (s : State) (own : Bool) (before : Tbi),
    ((own = false ∧ s.hearsOther .ready h (.ready n) ∧ before = s.tbi.passedBy) ∨
      (own = true ∧ (∃ e, s.hearsOwn .ready h (.ready n) e) ∧ before = s.tbi.ownPassed)) →
    ∃ t, exec (.ready (.whole h .clear)) s = .next t ∧ t.tbi = before ∧
      (s.mbr.state ≠ .member → t.ftc = s.ftc) ∧
      (s.mbr.state = .member → t.ftc = { s.ftc with records := s.ftc.records.map fun r =>
        if r.frame = n then
          { r with
            state := if own = true ∧ r.state = .drained then .ready else r.state
            readyStations := if r.requiredStations.getLsbD (wordParty h.word) = true then
              r.readyStations ||| (1#32 <<< wordParty h.word) else r.readyStations }
        else r }) ∧
      SameBut [.tbi, .ftc] s t

/-! ## Writes -/

/-- The seven conditions of a FILL or RUN at a MEMBER, in order: the fields in the ranges of R93's table, the
frame, the sender among the required sources and not among the closed ones, the tile, the entries and the
pixels. The oldest open frame may use 32 entries and 4096 pixels, any other 24 and 3072. A RUN needs the
clipped area in pixels, a FILL none (against R7's example the MODEL'S CHOICE, log 35). What is set aside is
the record that the write becomes. -/
def Obligations.WriteIsDecidedOnSevenConditions : Prop :=
  ∀ (k : Kind) (h : Heard) (m : Message) (w : WriteHead) (need : Rect → Nat) (paint : Rect → Paint)
    (valid : Prop) (s : State),
    s.hearsOther k h m → s.mbr.state = .member →
    ((k = .fill ∧ (valid ↔ w.inRange) ∧ (∀ c, need c = 0) ∧
        ∃ colour, m = .fill w colour ∧ ∀ c, paint c = .fill colour) ∨
      (k = .run ∧ (∀ c, need c = c.width * c.height) ∧ ∃ count ps, m = .run w count ps ∧
        (valid ↔ w.inRange ∧ w.countInRange count) ∧ ∀ c, paint c = .run (s.clipPixels w c ps))) →
    ∃ t, exec (commandOf k (.checkCode h)) s = .next t ∧
      (¬valid → Refuses .badField k h m s t) ∧
      (valid → s.ftc.find w.frame = none →
        (∀ f, s.ftc.f0 = some f → w.frame ≠ f - 1 → w.frame ≠ f - 2 →
          Refuses .frameState k h m s t) ∧
        (s.ftc.f0 = none ∨ s.ftc.f0 = some (w.frame + 1) ∨ s.ftc.f0 = some (w.frame + 2) →
          Passes .nothing k h m s t)) ∧
      (valid → ∀ r, s.ftc.find w.frame = some r →
        (r.state ≠ .init → r.state ≠ .filling → Refuses .frameState k h m s t) ∧
        (r.state = .init ∨ r.state = .filling →
          (r.requiredSources.getLsbD (wordParty h.word) = false ∨
              r.closedSources.getLsbD (wordParty h.word) = true →
            Refuses .sourceState k h m s t) ∧
          (r.requiredSources.getLsbD (wordParty h.word) = true →
            r.closedSources.getLsbD (wordParty h.word) = false →
            (s.clip w.x w.y w.width w.height = none → Passes .nothing k h m s t) ∧
            (∀ c entries pixels, s.clip w.x w.y w.width w.height = some c →
              (entries, pixels) = s.writeLimits w.frame →
              (entries < s.inq.length + 1 → Refuses .queueFull k h m s t) ∧
              (s.inq.length + 1 ≤ entries → pixels < storedPixels s.inq + need c →
                Refuses .pixelsFull k h m s t) ∧
              (s.inq.length + 1 ≤ entries → storedPixels s.inq + need c ≤ pixels →
                ∃ op, op.code = w.op.toNat ∧ Passes (.apply
                  { frame := w.frame, paint := paint c, op, mask := w.mask, rect := c, row := 0
                    col := 0 }) k h m s t)))))

/-- A write that its station decided to pass stands. Where the station passed all seven conditions, within
the limits of the oldest open frame or of any other, its record joins the tail of the apply queue with the
clipped rectangle, no progress and, for a RUN, the list entries that fall on the tile, and the frame's
pending count rises by 1; so it does when the verdict comes alone, on whatever the station then holds. At a
station that is no MEMBER, a MEMBER passed by the F0 test and a MEMBER whose tile the rectangle misses it
changes nothing. -/
def Obligations.StandingWriteJoinsTheApplyQueue : Prop :=
  (∀ (k : Kind) (h : Heard) (m : Message) (w : WriteHead) (s : State),
    s.hearsOther k h m →
    ((k = .fill ∧ (∃ colour, m = .fill w colour) ∧ w.inRange) ∨
      (k = .run ∧ ∃ count ps, m = .run w count ps ∧ w.inRange ∧ w.countInRange count)) →
    (s.mbr.state ≠ .member ∨
      (s.ftc.find w.frame = none ∧
        (s.ftc.f0 = none ∨ s.ftc.f0 = some (w.frame + 1) ∨ s.ftc.f0 = some (w.frame + 2))) ∨
      (∃ r, s.ftc.find w.frame = some r ∧ (r.state = .init ∨ r.state = .filling) ∧
        r.requiredSources.getLsbD (wordParty h.word) = true ∧
        r.closedSources.getLsbD (wordParty h.word) = false ∧
        s.clip w.x w.y w.width w.height = none)) →
    ∃ t, exec (commandOf k (.whole h .clear)) s = .next t ∧ t.tbi = s.tbi.passedBy ∧
      SameBut [.tbi] s t) ∧
  (∀ (k : Kind) (h : Heard) (m : Message) (w : WriteHead) (r : FrameRecord) (c : Rect)
    (paint : Paint) (entries pixels : Nat) (s : State),
    s.hearsOther k h m → s.mbr.state = .member →
    ((k = .fill ∧ ∃ colour, m = .fill w colour ∧ paint = .fill colour ∧ w.inRange) ∨
      (k = .run ∧ ∃ count ps, m = .run w count ps ∧ paint = .run (s.clipPixels w c ps) ∧
        w.inRange ∧ w.countInRange count)) →
    s.ftc.find w.frame = some r → r.state = .init ∨ r.state = .filling →
    r.requiredSources.getLsbD (wordParty h.word) = true →
    r.closedSources.getLsbD (wordParty h.word) = false →
    s.clip w.x w.y w.width w.height = some c → (entries, pixels) = s.writeLimits w.frame →
    s.inq.length + 1 ≤ entries → storedPixels s.inq + paint.stored ≤ pixels →
    ∃ t op, exec (commandOf k (.whole h .clear)) s = .next t ∧ t.tbi = s.tbi.passedBy ∧
      op.code = w.op.toNat ∧ t.inq = s.inq ++
        [{ frame := w.frame, paint, op, mask := w.mask, rect := c, row := 0, col := 0 }] ∧
      t.ftc = { s.ftc with records := s.ftc.records.map fun x =>
        if x.frame = w.frame then { x with pending := x.pending + 1 } else x } ∧
      SameBut [.tbi, .inq, .ftc] s t) ∧
  ∀ (k : Kind) (a : ApplyRecord) (s : State), k = .fill ∨ k = .run →
    s.hasSetAside k (.apply a) →
    ∃ t, exec (commandOf k (.verdict .clear)) s = .next t ∧
      t.tbi = { s.tbi with receiving := none } ∧ t.inq = s.inq ++ [a] ∧
      t.ftc = { s.ftc with records := s.ftc.records.map fun x =>
        if x.frame = a.frame then { x with pending := x.pending + 1 } else x } ∧
      SameBut [.tbi, .inq, .ftc] s t

/-- The clipped rectangle is the positions that lie in the write's rectangle and in the tile, in tile
coordinates, and the clipped pixel of row j and column i is the list entry of its wall position. -/
def Obligations.ClippingKeepsThePositionsOnTheTile : Prop :=
  ∀ (s : Station) (w : WriteHead) (ps : List Pixel),
    (s.clip w.x w.y w.width w.height = none ↔ ¬∃ x y : Nat,
      w.x.toNat ≤ x ∧ x < w.x.toNat + w.width.toNat ∧ w.y.toNat ≤ y ∧
      y < w.y.toNat + w.height.toNat ∧ s.originX ≤ x ∧ x < s.originX + s.width ∧
      s.originY ≤ y ∧ y < s.originY + s.height) ∧
    (∀ c, s.clip w.x w.y w.width w.height = some c →
      (∀ x y : Nat,
        (c.left ≤ x ∧ x < c.left + c.width ∧ c.top ≤ y ∧ y < c.top + c.height) ↔
        (x < s.width ∧ y < s.height ∧
          w.x.toNat ≤ s.originX + x ∧ s.originX + x < w.x.toNat + w.width.toNat ∧
          w.y.toNat ≤ s.originY + y ∧ s.originY + y < w.y.toNat + w.height.toNat)) ∧
      (ps.length = w.width.toNat * w.height.toNat →
        (s.clipPixels w c ps).length = c.width * c.height ∧
        ∀ i j, i < c.width → j < c.height →
          (s.clipPixels w c ps)[j * c.width + i]? =
            ps[(s.originY + c.top + j - w.y.toNat) * w.width.toNat +
              (s.originX + c.left + i - w.x.toNat)]?))

/-! ## The tile memory -/

/-- The level of a requester at a decision: U, the highest, while its request stands and it is urgent, and
below it the level of the profile's row; the profile changes at a release of RESET# alone. -/
def Obligations.ProfileAndUrgencyGiveTheLevel : Prop :=
  (∀ (s : Station) (r : Requester),
    (s.urgent r = true → s.level r = 0) ∧
    (s.urgent r = false → s.level r = 1 + (match s.straps.profile.toNat, r with
      | 0, .scan => 0 | 0, .mref => 1 | 0, .apply => 2 | 0, .init => 3 | 0, .read => 4
      | 1, .scan => 0 | 1, .mref => 2 | 1, .apply => 1 | 1, .init => 1 | 1, .read => 3
      | 2, .scan => 0 | 2, .mref => 2 | 2, .apply => 3 | 2, .init => 3 | 2, .read => 1
      | _, .scan => 0 | _, .mref => 1 | _, .apply => 2 | _, .init => 2 | _, .read => 2)) ∧
    (s.urgent r = true ↔ s.requests r = true ∧
      ((r = .scan ∧ s.scn.fifo.length ≤ 2) ∨ (r = .mref ∧ 6 ≤ s.mar.debt)))) ∧
  ∀ (c : Instr) (s t : State), (∀ pins busy, c ≠ .resetRelease pins busy) →
    exec c s = .next t → t.straps.profile = s.straps.profile

/-- When a request stands: the five requesters' conditions. -/
def Obligations.RequestsStandOnTheirConditions : Prop :=
  ∀ s : Station,
    (s.requests .scan = true ↔ s.mar.inFlight ≠ some .scan ∧ s.scn.front.isSome = true ∧
      s.scn.fifo.length < 8 ∧ s.scn.fetch.isSome = true) ∧
    (s.requests .mref = true ↔ s.mar.inFlight ≠ some .mref ∧ 1 ≤ s.mar.debt) ∧
    (s.requests .apply = true ↔ s.mar.inFlight ≠ some .apply ∧ ∃ k ∈ s.inq, ∃ f,
      s.ftc.find k.frame = some f ∧ (f.state = .filling ∨ f.state = .sealed)) ∧
    (s.requests .init = true ↔ s.mar.inFlight ≠ some .init ∧ ∃ j js, s.fie = j :: js ∧
      j.phase = .running) ∧
    (s.requests .read = true ↔ s.mar.inFlight ≠ some .read ∧
      (∃ k ∈ s.rbe, k.row < k.rect.height) ∧
      s.tbi.queue.countP (fun e => e.msg.kind == .readReply) < 4)

/-- The candidate of a decision stands at the highest level at which a request stands, and is the
earliest in the grant history of those that do; it is the one granted, and there is none only when no
request stands. -/
def Obligations.CandidateIsHighestThenEarliest : Prop :=
  ∀ s : Station, s.HistoryFits →
    (s.candidate = none ↔ ∀ r, s.requests r = false) ∧
    (∀ r, s.candidate = some r ↔ s.requests r = true ∧ ∀ q, s.requests q = true → q ≠ r →
      s.level r < s.level q ∨
        (s.level r = s.level q ∧ s.mar.history.idxOf r < s.mar.history.idxOf q)) ∧
    (∀ r, s.candidate = some r → s.decideGrant = s.grant r) ∧
    (s.candidate = none → s.decideGrant = s)

/-- REQUEST_AT_IDLE_ARBITER: a standing request at an idle arbiter is granted at once. The requester goes
to the end of the history, its burst is formed from its own state, and the marks of the buffers it
targets are set. An APPLY burst writes a FILL's colour at every covered position, and for a RUN the stored
pixel of each covered position of the clipped rectangle. A request that does not stand, or finds a burst in flight, is granted nothing. -/
def Obligations.RequestAtIdleArbiterIsGranted : Prop :=
  ∀ (r : Requester) (s : State), s.resetAsserted = false → s.InitListFits →
    (s.mar.burst ≠ none ∨ s.requests r = false → exec (.requestAtIdleArbiter r) s = .next s) ∧
    (s.mar.burst = none → s.requests r = true →
      ∃ t w, exec (.requestAtIdleArbiter r) s = .next t ∧
        t.mar = { s.mar with
          history := s.mar.history.filter (fun q => q != r) ++ [r], burst := some ⟨w, false⟩ } ∧
        (match r with
          | .scan => ∃ b p, s.scn.front = some b ∧ s.scn.fetch = some p ∧
            w = .scan b p.line p.segment
          | .mref => w = .mref
          | .apply => ∃ i k f vs, s.inq[i]? = some k ∧ s.ftc.find k.frame = some f ∧
            (f.state = .filling ∨ f.state = .sealed) ∧
            (∀ j d g, j < i → s.inq[j]? = some d → s.ftc.find d.frame = some g →
              g.state ≠ .filling ∧ g.state ≠ .sealed) ∧
            w = .apply ⟨f.buffer, k.rect.top + k.row, k.rect.left + k.col,
              min 64 (k.rect.width - k.col)⟩ k.op k.mask vs i ∧
            vs.length ≤ min 64 (k.rect.width - k.col) ∧
            ∀ l < min 64 (k.rect.width - k.col),
              (∀ c, k.paint = .fill c → vs[l]? = some c) ∧
              ∀ ps, k.paint = .run ps → vs[l]? = ps[k.row * k.rect.width + k.col + l]?
          | .init => ∃ j js, s.fie = j :: js ∧
            ((∃ c, j.work = .fill c ∧
                w = .initFill ⟨j.target, j.row, j.col, min 256 (s.width - j.col)⟩ c) ∨
              (∃ b, j.work = .copy ∧ j.source = some b ∧
                w = .initCopy b ⟨j.target, j.row, j.col, min 256 (s.width - j.col)⟩))
          | .read => ∃ k, (s.rbe.find? fun x => decide (x.row < x.rect.height)) = some k ∧
            w = .read ⟨k.buffer, k.rect.top + k.row, k.rect.left + k.col,
              min 64 (k.rect.width - k.col)⟩ k.requester k.tag) ∧
        (∀ b, t.ftc.buffers.get b =
          if b ∈ w.targets then { s.ftc.buffers.get b with inFlight := true }
          else s.ftc.buffers.get b) ∧
        t.ftc = { s.ftc with buffers := t.ftc.buffers } ∧ SameBut [.mar, .ftc] s t)

/-- MEMORY_REFRESH_EXPIRY: below 8 the debt rises by 1, at 8 REFRESH_OVERRUN is counted; the timer
restarts for 7.8 µs. MREF_BURST_COMPLETE: the debt falls by 1, and nothing moves but what the decision
grants. -/
def Obligations.RefreshDebtRisesAndFalls : Prop :=
  (∀ s : State, s.resetAsserted = false →
    ∃ t, exec .memoryRefreshExpiry s = .next t ∧
      (s.mar.debt < 8 →
        t.mar = { s.mar with debt := s.mar.debt + 1, timer := 78 } ∧ t.stu = s.stu) ∧
      (8 ≤ s.mar.debt →
        t.mar = { s.mar with timer := 78 } ∧ t.stu = Stu.counted .refreshOverrun s.stu) ∧
      SameBut [.mar, .stu] s t) ∧
  ∀ (s : State) (d : Bool), s.resetAsserted = false → s.mar.burst = some ⟨.mref, d⟩ →
    ∃ t, exec .mrefBurstComplete s = .next t ∧ t.mar.debt = s.mar.debt - 1 ∧
      t.mar.timer = s.mar.timer ∧ t.ftc = { s.ftc with buffers := t.ftc.buffers } ∧
      (∀ b, (t.ftc.buffers.get b).state = (s.ftc.buffers.get b).state ∧
        (t.ftc.buffers.get b).frame = (s.ftc.buffers.get b).frame) ∧
      SameBut [.mar, .ftc] s t

/-- The completion of the burst in flight, of any requester: the burst is over and the marks of the
buffers it targets are clear, a RELEASING one of them FREE, before a decision that grants the candidate
as at an idle arbiter, or nothing without one. Every other buffer keeps its state, frame number and mark, but
for that of a RETIRING record that the end of a COPY leaves without pins, which is released. A completion of a requester that has no burst in flight
cannot come; that the command then changes nothing is the MODEL'S CHOICE (log 6). -/
def Obligations.CompletionClearsTheMarksAndDecides : Prop :=
  ∀ (c : Instr) (r : Requester) (s : State), s.resetAsserted = false →
    ((c = .scanBurstComplete ∧ r = .scan) ∨ (c = .mrefBurstComplete ∧ r = .mref) ∨
      (c = .applyBurstComplete ∧ r = .apply) ∨ (c = .initBurstComplete ∧ r = .init) ∨
      (c = .readBurstComplete ∧ r = .read)) →
    (s.mar.inFlight ≠ some r → exec c s = .next s) ∧
    (∀ b, s.mar.burst = some b → b.work.requester = r →
      ∃ (t : State) (u : Station), exec c s = .next t ∧
        u.mar.burst = none ∧ u.mar.history = s.mar.history ∧ u.mar.timer = s.mar.timer ∧
        (∀ (x : Buf) (d : BufDesc), d = (if x ∈ b.work.targets then
            { s.ftc.buffers.get x with
              inFlight := false
              state := if (s.ftc.buffers.get x).state = .releasing then .free
                else (s.ftc.buffers.get x).state }
            else s.ftc.buffers.get x) →
          u.ftc.buffers.get x = if s.copyEndDrops b = some x then d.released else d) ∧
        (u.candidate = none → t.toStation = u) ∧
        (∀ q, u.candidate = some q →
          exec (.requestAtIdleArbiter q) { s with toStation := u } = .next t) ∧
        SameBut [.tbi, .ftc, .inq, .fie, .rbe, .mar, .scn, .mem] s t)

/-- SCAN_BURST_COMPLETE: a segment of the current refresh at the fetch position enters the FIFO with the
64 pixels of the buffer read, and the fetch position moves on in raster order; any other segment is
discarded with the FIFO and the fetch position as they are. -/
def Obligations.ScanBurstFillsTheFifo : Prop :=
  ∀ (s : State) (b : Buf) (l g : Nat) (d : Bool), s.resetAsserted = false →
    s.mar.burst = some ⟨.scan b l g, d⟩ →
    ∃ t, exec .scanBurstComplete s = .next t ∧
      (d = false → s.scn.fetch = some ⟨l, g⟩ → ∃ px : List Pixel, px.length = 64 ∧
        (∀ i < 64, px[i]? = some (Memory.readPixel s.mem b l (64 * g + i))) ∧
        t.scn = { s.scn with
          fifo := s.scn.fifo ++ [⟨⟨l, g⟩, px⟩]
          fetch := if g + 1 < s.width / 64 then some ⟨l, g + 1⟩
            else if l + 1 < s.height then some ⟨l + 1, 0⟩ else none }) ∧
      (d = true ∨ s.scn.fetch ≠ some ⟨l, g⟩ → t.scn = s.scn) ∧
      t.mar.debt = s.mar.debt ∧ t.mar.timer = s.mar.timer ∧
      t.ftc = { s.ftc with buffers := t.ftc.buffers } ∧ SameBut [.scn, .mar, .ftc] s t

/-- A raster op writes the written value, or its AND, OR or XOR with the stored one, into each channel
that the mask names, and keeps the others. APPLY_BURST_COMPLETE: each covered pixel holds the written
value so combined with the stored one, every byte outside them is as before. Unless the work was dropped,
the record's progress moves on; at its last burst it leaves the queue and its frame's pending count falls
by 1. A SEALED frame whose count falls to 0 is DRAINED: its READY is queued when its predecessor is not
held or has committed, and a COPY job that waits for it begins and pins it. -/
def Obligations.ApplyBurstWritesAndAdvances : Prop :=
  (∀ (op : RasterOp) (mask : BitVec 4) (old new : Pixel) (f : Byte → Byte → Byte),
    ((op = .replace ∧ f = fun _ n => n) ∨ (op = .and ∧ f = fun o n => o &&& n) ∨
      (op = .or ∧ f = fun o n => o ||| n) ∨ (op = .xor ∧ f = fun o n => o ^^^ n)) →
    combinePixel op mask old new =
      { r := if mask.getLsbD 3 then f old.r new.r else old.r
        g := if mask.getLsbD 2 then f old.g new.g else old.g
        b := if mask.getLsbD 1 then f old.b new.b else old.b
        a := if mask.getLsbD 0 then f old.a new.a else old.a }) ∧
  ∀ (s : State) (sp : Span) (op : RasterOp) (mask : BitVec 4) (vs : List Pixel) (slot : Nat)
    (d : Bool), s.resetAsserted = false → Memory.wf s.mem = true →
    s.mar.burst = some ⟨.apply sp op mask vs slot, d⟩ →
    ∃ t, exec .applyBurstComplete s = .next t ∧
      (∀ i v, vs[i]? = some v → Memory.readPixel t.mem sp.buffer sp.line (sp.col + i) =
        combinePixel op mask (Memory.readPixel s.mem sp.buffer sp.line (sp.col + i)) v) ∧
      (∀ a, a < pixelAddr sp.buffer sp.line sp.col ∨
          pixelAddr sp.buffer sp.line sp.col + 4 * vs.length ≤ a →
        Memory.read t.mem a = Memory.read s.mem a) ∧
      (d = true → t.inq = s.inq ∧ t.ftc.records = s.ftc.records ∧ t.tbi = s.tbi ∧
        t.fie = s.fie) ∧
      (∀ k, d = false → s.inq[slot]? = some k →
        (k.col + sp.count < k.rect.width → t.tbi = s.tbi ∧ t.fie = s.fie ∧
          t.ftc.records = s.ftc.records ∧
          t.inq = s.inq.set slot { k with col := k.col + sp.count }) ∧
        (k.rect.width ≤ k.col + sp.count → k.row + 1 < k.rect.height → t.tbi = s.tbi ∧
          t.fie = s.fie ∧ t.ftc.records = s.ftc.records ∧
          t.inq = s.inq.set slot { k with row := k.row + 1, col := 0 }) ∧
        (k.rect.width ≤ k.col + sp.count → k.rect.height ≤ k.row + 1 →
          t.inq = s.inq.eraseIdx slot ∧
          (∀ r drains, s.ftc.find k.frame = some r →
            drains = decide (r.state = .sealed ∧ r.pending ≤ 1) →
            t.ftc.find k.frame = some { r with
              pending := r.pending - 1
              state := if drains then .drained else r.state
              pins := if drains && s.copyWaits k.frame then r.pins + 1 else r.pins } ∧
            t.tbi = { s.tbi with
              queue := s.tbi.queue ++ if drains then s.readyEntry k.frame else [] } ∧
            t.fie = if drains && s.copyWaits k.frame then copyBegun r.buffer s.fie else s.fie) ∧
          (s.ftc.find k.frame = none → t.tbi = s.tbi ∧ t.fie = s.fie) ∧
          ∀ f, f ≠ k.frame → t.ftc.find f = s.ftc.find f)) ∧
      t.mar.debt = s.mar.debt ∧ t.mar.timer = s.mar.timer ∧
      t.ftc.lastOpened = s.ftc.lastOpened ∧ t.ftc.f0 = s.ftc.f0 ∧
      t.ftc.refresh = s.ftc.refresh ∧
      SameBut [.mem, .inq, .ftc, .mar, .tbi, .fie] s t

/-- INIT_BURST_COMPLETE: a FILL burst leaves the colour in every covered pixel, a COPY burst the source
buffer's pixel of the same place; every byte outside them is as before. Unless the work was dropped,
the job's progress moves on. At its last burst it leaves the list: a COPY drops its pin of the predecessor,
the record leaves INIT, to FILLING when not sealed, to SEALED when sealed with records pending, to DRAINED
when sealed with none, where its READY is queued when its predecessor is not held or has committed. The
job of the successor, queued behind it, then runs: a FILL at once, a COPY if the record has drained, which
pins it, and otherwise it waits. -/
def Obligations.InitBurstPreparesTheBuffer : Prop :=
  ∀ (s : State) (w : BurstWork) (sp : Span) (d : Bool), s.resetAsserted = false →
    Memory.wf s.mem = true → s.mar.burst = some ⟨w, d⟩ →
    ((∃ c, w = .initFill sp c) ∨ ∃ b, w = .initCopy b sp) →
    ∃ t, exec .initBurstComplete s = .next t ∧
      (∀ c i, w = .initFill sp c → i < sp.count →
        Memory.readPixel t.mem sp.buffer sp.line (sp.col + i) = c) ∧
      (∀ b i, w = .initCopy b sp → i < sp.count →
        Memory.readPixel t.mem sp.buffer sp.line (sp.col + i) =
          Memory.readPixel s.mem b sp.line (sp.col + i)) ∧
      (∀ a, a < pixelAddr sp.buffer sp.line sp.col ∨
          pixelAddr sp.buffer sp.line sp.col + 4 * sp.count ≤ a →
        Memory.read t.mem a = Memory.read s.mem a) ∧
      (d = true → t.fie = s.fie ∧ t.ftc.records = s.ftc.records ∧ t.tbi = s.tbi) ∧
      (∀ j js, d = false → s.fie = j :: js →
        (j.col + sp.count < s.width → t.fie = { j with col := j.col + sp.count } :: js ∧
          t.ftc.records = s.ftc.records ∧ t.tbi = s.tbi) ∧
        (s.width ≤ j.col + sp.count → j.row + 1 < s.height →
          t.fie = { j with row := j.row + 1, col := 0 } :: js ∧
          t.ftc.records = s.ftc.records ∧ t.tbi = s.tbi) ∧
        (s.width ≤ j.col + sp.count → s.height ≤ j.row + 1 →
          t.fie.map (fun i => (i.frame, i.work, i.target)) =
            js.map (fun i => (i.frame, i.work, i.target)) ∧
          (∀ i is, t.fie = i :: is → i.phase ≠ .queued) ∧
          (∀ r, s.ftc.find j.frame = some r → r.state = .init →
            ∃ r', t.ftc.find j.frame = some r' ∧
              r' = { r with state := r'.state, pins := r'.pins } ∧
              r'.state = (if r.closedSources ≠ r.requiredSources then .filling
                else if 0 < r.pending then .sealed else .drained)) ∧
          ((∀ i ∈ js, i.phase = .queued ∧ i.frame = j.frame + 1) →
            ∀ r drains starts, s.ftc.find j.frame = some r → r.state = .init →
              drains = decide (r.closedSources = r.requiredSources ∧ r.pending = 0) →
              starts = (drains && js.head?.any fun i => i.work == .copy) →
              t.tbi = { s.tbi with
                queue := s.tbi.queue ++ if drains then s.readyEntry j.frame else [] } ∧
              (t.ftc.find j.frame).map (fun x => x.pins) =
                some (if starts then r.pins + 1 else r.pins) ∧
              (∀ i is, js = i :: is → t.fie =
                (if i.work = .copy then
                  if starts then { i with source := some r.buffer, phase := .running }
                  else { i with phase := .waiting }
                else { i with phase := .running }) :: is) ∧
              (∀ p, j.work = .copy → s.ftc.find (j.frame - 1) = some p →
                t.ftc.find (j.frame - 1) = if p.state = .retiring ∧ p.pins ≤ 1 then none
                  else some { p with pins := p.pins - 1 }) ∧
              ∀ f, f ≠ j.frame → j.work ≠ .copy ∨ f ≠ j.frame - 1 →
                t.ftc.find f = s.ftc.find f))) ∧
      t.mar.debt = s.mar.debt ∧ t.mar.timer = s.mar.timer ∧
      t.ftc.lastOpened = s.ftc.lastOpened ∧ t.ftc.f0 = s.ftc.f0 ∧
      t.ftc.refresh = s.ftc.refresh ∧
      SameBut [.mem, .fie, .ftc, .mar, .tbi] s t

/-- READ_BURST_COMPLETE of a record still in the queue: one READ_REPLY of the burst's pixels is queued as
the youngest entry, with the record's chunk index and the wall position of its first pixel, its last flag
set at the end of the last row; the record moves on. A dropped burst and a record that is gone make no
reply and move nothing. -/
def Obligations.ReadBurstQueuesOneReply : Prop :=
  ∀ (s : State) (sp : Span) (q : Nat) (tag : Byte) (d : Bool), s.resetAsserted = false →
    s.mar.burst = some ⟨.read sp q tag, d⟩ →
    ∃ t, exec .readBurstComplete s = .next t ∧
      (d = true ∨ (∀ k ∈ s.rbe, ¬(k.requester = q ∧ k.tag = tag)) →
        t.tbi = s.tbi ∧ t.rbe = s.rbe) ∧
      (∀ k, d = false →
        (s.rbe.find? fun x => x.requester == q && x.tag == tag) = some k →
        ∃ px : List Pixel, px.length = sp.count ∧
          (∀ i < sp.count, px[i]? = some (Memory.readPixel s.mem sp.buffer sp.line (sp.col + i))) ∧
          t.tbi = { s.tbi with queue := s.tbi.queue ++ [⟨.readReply {
            requester := BitVec.ofNat 8 q, tag, frame := k.frame
            chunk := BitVec.ofNat 24 k.nextChunk
            x := BitVec.ofNat 16 (s.originX + k.rect.left + k.col)
            y := BitVec.ofNat 16 (s.originY + k.rect.top + k.row)
            count := BitVec.ofNat 8 sp.count
            last := decide (k.rect.height ≤ k.row + 1 ∧ k.rect.width ≤ k.col + sp.count)
            pixels := px }, .waiting⟩] } ∧
          t.rbe = s.rbe.map fun x =>
            if x.requester = q ∧ x.tag = tag then
              { x with
                nextChunk := x.nextChunk + 1, unconfirmed := x.unconfirmed + 1
                row := if x.col + sp.count < x.rect.width then x.row else x.row + 1
                col := if x.col + sp.count < x.rect.width then x.col + sp.count else 0 }
            else x) ∧
      t.mar.debt = s.mar.debt ∧ t.mar.timer = s.mar.timer ∧
      t.ftc = { s.ftc with buffers := t.ftc.buffers } ∧ SameBut [.tbi, .rbe, .mar, .ftc] s t

/-! ## The pulse and the panel -/

/-- The three pulses. WSYNC_EDGE ends free-run and restarts the sync watch; SYNC_LOST enters free-run with
its first expiry 16 667 µs later and is counted; FREE_RUN_EXPIRY restarts the timer. Each empties the
FIFO, leaves a SCAN burst in flight to the ended refresh, advances the refresh number by 1, takes the
front as the frame table then names it, and begins blanking with the fetch position at line 0, segment
0, and the output position there too (MODEL'S CHOICE, log 11). SYNC_LOST in free-run and an expiry of a
stopped timer change nothing. Beside SYNC_LOST a pulse can count only STALL and TICK_STARVED: the segments it
cuts off are counted nowhere. -/
def Obligations.PulseBeginsARefresh : Prop :=
  ∀ (src : PulseSource) (s : State), s.resetAsserted = false →
    ((src = .syncLost ∧ s.scn.freeRun = true) ∨
        (src = .freeRunExpiry ∧ s.scn.freeRunTimer = none) →
      exec (pulseCommand src) s = .next s) ∧
    (¬((src = .syncLost ∧ s.scn.freeRun = true) ∨
        (src = .freeRunExpiry ∧ s.scn.freeRunTimer = none)) →
      ∃ t, exec (pulseCommand src) s = .next t ∧
        t.scn.freeRun = (match src with
          | .wsyncEdge => false | .syncLost => true | .freeRunExpiry => s.scn.freeRun) ∧
        t.scn.syncWatch = (match src with
          | .wsyncEdge => 0 | .syncLost => 250005 | .freeRunExpiry => s.scn.syncWatch) ∧
        t.scn.freeRunTimer = (match src with
          | .wsyncEdge => none | .syncLost => some 166670 | .freeRunExpiry => some 166670) ∧
        t.scn.phase = .blanking ∧ t.scn.fetch = some ⟨0, 0⟩ ∧ t.scn.fifo = [] ∧
        t.scn.panel = .blanking ∧ t.scn.output = ⟨0, 0⟩ ∧ t.scn.taken = s.scn.taken ∧
        t.scn.front = (match t.ftc.records.find? fun r => r.state == .shown with
          | some r => some r.buffer
          | none => [Buf.b0, .b1, .b2].find? fun b =>
              (t.ftc.buffers.get b).state == .heldImage) ∧
        t.ftc.refresh = s.ftc.refresh + 1 ∧
        t.mar = { s.mar with burst := s.mar.burst.map fun b =>
          { b with dropped := b.dropped || b.work.requester == .scan } } ∧
        t.stu.counters.get .syncLost =
          (if src = .syncLost then saturate (s.stu.counters.get .syncLost)
          else s.stu.counters.get .syncLost) ∧
        (∀ c, c ≠ .syncLost → c ≠ .stall → c ≠ .tickStarved →
          t.stu.counters.get c = s.stu.counters.get c) ∧
        t.stu.pendingReport = s.stu.pendingReport ∧
        t.ftc.lastOpened = s.ftc.lastOpened ∧ t.ftc.f0 = s.ftc.f0 ∧
        SameBut [.scn, .ftc, .mbr, .tbi, .mar, .stu] s t)

/-- A pulse at the frame table. At a MEMBER a COMMITTED record whose show refresh the advanced count
reaches is SHOWN, the record SHOWN before goes to RETIRING when pinned, its buffer staying BOUND with its
frame number, and is dropped with its buffer released otherwise, and a held image is released; every other
buffer is as before. Without such a record, and at no MEMBER, the records and buffers stay. Then the stall counts of the uncommitted records rise to the limit, and the oldest of
them is flagged at it and STALL counted, once. -/
def Obligations.PulseShowsTheCommittedFrameAndWatchesStalls : Prop :=
  ∀ (src : PulseSource) (s : State) (limit : Nat), s.resetAsserted = false →
    s.pulseDue src = true → [60, 120, 240, 480][s.straps.stall.toNat]? = some limit →
    ∃ (t : State) (shown counted : List FrameRecord), exec (pulseCommand src) s = .next t ∧
      (∀ r, s.mbr.state = .member →
        (s.ftc.records.find? fun x => x.state == .committed) = some r →
        r.showRefresh = some (s.ftc.refresh + 1) →
        ((∀ x ∈ s.ftc.records, x.state ≠ .shown) →
          shown = s.ftc.records.map (FrameRecord.shownAs r.frame)) ∧
        (∀ o, (s.ftc.records.find? fun x => x.state == .shown) = some o →
          (0 < o.pins → shown =
            (s.ftc.records.map (FrameRecord.retiredAs o.frame)).map (FrameRecord.shownAs r.frame)) ∧
          (o.pins = 0 → shown = (s.ftc.records.filter fun x => x.frame != o.frame).map
            (FrameRecord.shownAs r.frame)) ∧
          (o.pins = 0 → s.ftc.find o.frame = some o →
            t.ftc.buffers.get o.buffer = (s.ftc.buffers.get o.buffer).released) ∧
          (0 < o.pins → (s.ftc.buffers.get o.buffer).state = .bound →
            t.ftc.buffers.get o.buffer = s.ftc.buffers.get o.buffer)) ∧
        (∀ b, (s.ftc.buffers.get b).state ≠ .heldImage →
          (∀ o, (s.ftc.records.find? fun x => x.state == .shown) = some o →
            0 < o.pins ∨ (s.ftc.find o.frame = some o ∧ o.buffer ≠ b)) →
          t.ftc.buffers.get b = s.ftc.buffers.get b) ∧
        (∀ b, (s.ftc.buffers.get b).state = .heldImage →
          (∀ c, (s.ftc.buffers.get c).state = .heldImage → c = b) →
          (∀ x ∈ s.ftc.records, x.buffer ≠ b) →
          t.ftc.buffers.get b = (s.ftc.buffers.get b).released)) ∧
      (s.mbr.state ≠ .member ∨
          (∀ r, (s.ftc.records.find? fun x => x.state == .committed) = some r →
            r.showRefresh ≠ some (s.ftc.refresh + 1)) →
        shown = s.ftc.records ∧ t.ftc.buffers = s.ftc.buffers) ∧
      counted = shown.map (FrameRecord.watched limit) ∧
      (∀ r, (counted.find? fun x => x.state.isUncommitted) = some r →
        r.stallCount = limit → r.stalled = false →
        t.ftc.records = counted.map (FrameRecord.flaggedAs r.frame) ∧
        t.stu.counters.get .stall = saturate (s.stu.counters.get .stall)) ∧
      ((∀ r, (counted.find? fun x => x.state.isUncommitted) = some r →
          r.stallCount ≠ limit ∨ r.stalled = true) →
        t.ftc.records = counted ∧ t.stu.counters.get .stall = s.stu.counters.get .stall) ∧
      t.ftc.refresh = s.ftc.refresh + 1 ∧ t.stu.pendingReport = s.stu.pendingReport

/-- A pulse at a MEMBER. Its duty holder is the lowest member; the beacon watches of the other members
rise to 24; the tick watch is 0 at a new holder, and otherwise rises to 3, which at the holder itself is
counted as TICK_STARVED and is 0 again. The holder queues a TICK with the advanced count, in the place of
a waiting one, or held behind one in transmission, where it takes the place of one held before (MODEL'S
CHOICE, log 13). A mark of a removed holder is gone. Then, with no SUSPECT queued, the holder is suspected
at a tick watch of 3, or else the lowest member with a watch at 24. -/
def Obligations.PulseAtMemberMovesTheDutyAndTheWatches : Prop :=
  ∀ (src : PulseSource) (s : State), s.resetAsserted = false → s.pulseDue src = true →
    s.mbr.state = .member →
    ∃ (t : State) (ticked suspected : List TxEntry), exec (pulseCommand src) s = .next t ∧
      t.mbr = { s.mbr with
        dutyHolder := t.mbr.dutyHolder, holderRemoved := false, roster := t.mbr.roster
        tickWatch := t.mbr.tickWatch, suspectOrigin := t.mbr.suspectOrigin } ∧
      (∀ x, t.mbr.dutyHolder = some x ↔
        s.mbr.isMember x = true ∧ ∀ y < x, s.mbr.isMember y = false) ∧
      t.mbr.roster.length = s.mbr.roster.length ∧
      (∀ (x : Nat) (e : RosterEntry), s.mbr.roster[x]? = some e → t.mbr.roster[x]? = some
        (if e.member = true ∧ x ≠ s.number ∧ e.watch < 24 then { e with watch := e.watch + 1 }
        else e)) ∧
      (t.mbr.dutyHolder ≠ s.mbr.dutyHolder → t.mbr.tickWatch = 0) ∧
      (t.mbr.dutyHolder = s.mbr.dutyHolder →
        (s.mbr.tickWatch = 2 → t.mbr.dutyHolder = some s.number → t.mbr.tickWatch = 0) ∧
        (s.mbr.tickWatch < 2 ∨ (s.mbr.tickWatch = 2 ∧ t.mbr.dutyHolder ≠ some s.number) →
          t.mbr.tickWatch = s.mbr.tickWatch + 1) ∧
        (3 ≤ s.mbr.tickWatch → t.mbr.tickWatch = s.mbr.tickWatch)) ∧
      t.stu.counters.get .tickStarved =
        (if t.mbr.dutyHolder = s.mbr.dutyHolder ∧ s.mbr.tickWatch = 2 ∧
            s.mbr.dutyHolder = some s.number then saturate (s.stu.counters.get .tickStarved)
        else s.stu.counters.get .tickStarved) ∧
      t.tbi = { s.tbi with queue := ticked ++ suspected, heldTick := t.tbi.heldTick } ∧
      (t.mbr.dutyHolder ≠ some s.number →
        ticked = s.tbi.queue ∧ t.tbi.heldTick = s.tbi.heldTick) ∧
      (t.mbr.dutyHolder = some s.number →
        ((∃ d ∈ s.tbi.queue, d.msg.kind = .tick ∧ d.status = .sending) →
          ticked = s.tbi.queue ∧ t.tbi.heldTick = some (s.ftc.refresh + 1)) ∧
        ((∀ d ∈ s.tbi.queue, d.msg.kind = .tick → d.status ≠ .sending) →
          t.tbi.heldTick = s.tbi.heldTick ∧
          ((∃ d ∈ s.tbi.queue, d.msg.kind = .tick) → ticked = s.tbi.queue.map fun d =>
            if d.msg.kind = .tick then { d with msg := .tick (s.ftc.refresh + 1) } else d) ∧
          ((∀ d ∈ s.tbi.queue, d.msg.kind ≠ .tick) →
            ticked = s.tbi.queue ++ [⟨.tick (s.ftc.refresh + 1), .waiting⟩]))) ∧
      ((∃ d ∈ s.tbi.queue, d.msg.kind = .suspect) →
        suspected = [] ∧ t.mbr.suspectOrigin = s.mbr.suspectOrigin) ∧
      ((∀ d ∈ s.tbi.queue, d.msg.kind ≠ .suspect) →
        (∀ x, t.mbr.dutyHolder = some x → x ≠ s.number → t.mbr.tickWatch = 3 →
          suspected = [⟨.suspect x, .waiting⟩] ∧ t.mbr.suspectOrigin = some .tickWatch) ∧
        (t.mbr.dutyHolder = some s.number ∨ t.mbr.dutyHolder = none ∨ t.mbr.tickWatch ≠ 3 →
          (∀ x, t.overdueAt x → (∀ y < x, ¬t.overdueAt y) →
            suspected = [⟨.suspect x, .waiting⟩] ∧
            t.mbr.suspectOrigin = some (.beaconWatch x)) ∧
          ((∀ x, ¬t.overdueAt x) →
            suspected = [] ∧ t.mbr.suspectOrigin = s.mbr.suspectOrigin))) ∧
      SameBut [.scn, .ftc, .mbr, .tbi, .mar, .stu] s t

/-- A pulse at a station that is no MEMBER. A listener's tick watch rises by 1, and at 6 the station finds
the wall empty: JOINING with an empty roster, its JOIN queued. A joiner's wait falls by 1, and at 0 a
clash leads to REJECTED and anything else to a new JOIN. IDLE_OUT and REJECTED do not move. -/
def Obligations.PulseBeforeMembershipRunsTheJoin : Prop :=
  ∀ (src : PulseSource) (s : State), s.resetAsserted = false → s.pulseDue src = true →
    s.mbr.state ≠ .member →
    ∃ t, exec (pulseCommand src) s = .next t ∧
      (s.mbr.state = .listening → s.mbr.tickWatch < 5 →
        t.mbr = { s.mbr with tickWatch := s.mbr.tickWatch + 1 } ∧ t.tbi = s.tbi) ∧
      (s.mbr.state = .listening → 5 ≤ s.mbr.tickWatch →
        t.mbr = { s.mbr with
          state := .joining, roster := List.replicate 32 RosterEntry.absent, tickWatch := 0
          retryCount := 0, joinWait := 0 }) ∧
      (s.mbr.state = .joining → s.mbr.joinWait = 0 → t.mbr = s.mbr ∧ t.tbi = s.tbi) ∧
      (s.mbr.state = .joining → 1 < s.mbr.joinWait →
        t.mbr = { s.mbr with joinWait := s.mbr.joinWait - 1 } ∧ t.tbi = s.tbi) ∧
      (s.mbr.state = .joining → s.mbr.joinWait = 1 → s.clashes s.mbr.roster →
        t.mbr = s.mbr.turnedAway ∧
        t.tbi = { s.tbi with queue := s.tbi.queue.filter fun d =>
          d.status == .sending || d.msg.kind != .join }) ∧
      (s.mbr.state = .joining → s.mbr.joinWait = 1 → ¬s.clashes s.mbr.roster →
        t.mbr = { s.mbr with joinWait := 0 }) ∧
      ((s.mbr.state = .listening ∧ 5 ≤ s.mbr.tickWatch) ∨
          (s.mbr.state = .joining ∧ s.mbr.joinWait = 1 ∧ ¬s.clashes s.mbr.roster) →
        t.tbi = { s.tbi with queue :=
          if ∀ d ∈ s.tbi.queue, d.msg.kind ≠ .join then
            s.tbi.queue ++ [⟨.join s.tileByte, .waiting⟩]
          else s.tbi.queue }) ∧
      (s.mbr.state = .idleOut ∨ s.mbr.state = .rejected → t.mbr = s.mbr ∧ t.tbi = s.tbi) ∧
      t.stu.counters.get .tickStarved = s.stu.counters.get .tickStarved ∧
      SameBut [.scn, .ftc, .mbr, .tbi, .mar, .stu] s t

/-- The five commands that name a pulse by what it brings about are that pulse when it is due, and bring it
about: a beacon watch reaches 24; the tick watch reaches 3, or the holder has it counted and at 0; a
listener finds the wall empty; a join wait ends; the oldest uncommitted record, not flagged, has its
stall count at the limit. A command that is not due changes nothing (MODEL'S CHOICE, log 7). -/
def Obligations.NamedPulsesArePulsesWhenDue : Prop :=
  ∀ (src : PulseSource) (s : State), s.resetAsserted = false →
    (s.pulseDue src = false → ∀ c ∈ [Instr.tickWatchExpiry src, .listenTimeout src,
        .joinWaitEnd src, .stall src], exec c s = .next s) ∧
    (s.pulseDue src = true →
      ∃ t, exec (pulseCommand src) s = .next t ∧
      (s.mbr.state = .member → s.mbr.lowestMember = s.mbr.dutyHolder → s.mbr.tickWatch = 2 →
        exec (.tickWatchExpiry src) s = .next t ∧
        (s.mbr.dutyHolder ≠ some s.number → t.mbr.tickWatch = 3) ∧
        (s.mbr.dutyHolder = some s.number → t.mbr.tickWatch = 0 ∧
          t.stu.counters.get .tickStarved = saturate (s.stu.counters.get .tickStarved))) ∧
      (s.mbr.state = .listening → s.mbr.tickWatch = 5 →
        exec (.listenTimeout src) s = .next t ∧ t.mbr.state = .joining) ∧
      (s.mbr.state = .joining → s.mbr.joinWait = 1 →
        exec (.joinWaitEnd src) s = .next t ∧ t.mbr.joinWait = 0) ∧
      (∀ r limit, [60, 120, 240, 480][s.straps.stall.toNat]? = some limit →
        (s.ftc.records.find? fun x => x.state.isUncommitted) = some r →
        (r.stalled = false → r.stallCount = limit ∨ r.stallCount + 1 = limit →
          exec (.stall src) s = .next t) ∧
        (r.stalled = true ∨ (r.stallCount ≠ limit ∧ r.stallCount + 1 ≠ limit) →
          exec (.stall src) s = .next s))) ∧
    ((∀ r ∈ s.ftc.records, r.state.isUncommitted = false) → exec (.stall src) s = .next s) ∧
    (∀ x : BitVec 5,
      (s.pulseDue src = true ∧ s.mbr.state = .member ∧ x.toNat ≠ s.number ∧
          s.mbr.isMember x.toNat = true ∧ (s.mbr.entry x.toNat).watch = 23 →
        exec (.beaconWatchExpiry src x) s = exec (pulseCommand src) s ∧
        ∀ t, exec (pulseCommand src) s = .next t → (t.mbr.entry x.toNat).watch = 24) ∧
      (s.pulseDue src = false ∨ s.mbr.state ≠ .member ∨ x.toNat = s.number ∨
          s.mbr.isMember x.toNat = false ∨ (s.mbr.entry x.toNat).watch ≠ 23 →
        exec (.beaconWatchExpiry src x) s = .next s)) ∧
    (s.mbr.state ≠ .member ∨ s.mbr.lowestMember ≠ s.mbr.dutyHolder ∨ s.mbr.tickWatch ≠ 2 →
      exec (.tickWatchExpiry src) s = .next s) ∧
    (s.mbr.state ≠ .listening ∨ s.mbr.tickWatch ≠ 5 → exec (.listenTimeout src) s = .next s) ∧
    (s.mbr.state ≠ .joining ∨ s.mbr.joinWait ≠ 1 → exec (.joinWaitEnd src) s = .next s)

/-- BLANKING_END begins the lines at line 0, segment 0. SEGMENT_TAKEN in ACTIVE puts out the segment at
the output position: the FIFO's first when it holds one; black with UNDERFLOW counted when the refresh
has a front and the FIFO is empty; black, uncounted, without a front. The output position moves on in
raster order, or the raster ends and the port puts out blanking. A fetch position on a lost segment moves
past it. MODEL'S CHOICES: without a front the fetch position moves so too (log 12); a blanking end outside
BLANKING and a segment time outside ACTIVE change nothing (log 6); the segment taken last is kept as it
was put out (log 32). -/
def Obligations.PanelTakesTheSegmentsInRasterOrder : Prop :=
  (∀ s : State, s.resetAsserted = false →
    (s.scn.phase = .blanking → ∃ t, exec .blankingEnd s = .next t ∧
      t.scn = { s.scn with phase := .active, output := ⟨0, 0⟩ } ∧ SameBut [.scn] s t) ∧
    (s.scn.phase ≠ .blanking → exec .blankingEnd s = .next s) ∧
    (s.scn.phase ≠ .active → exec .segmentTaken s = .next s)) ∧
  ∀ (s : State) (next : Option SegPos), s.resetAsserted = false → s.scn.phase = .active →
    next = (if s.scn.output.segment + 1 < s.width / 64 then
        some ⟨s.scn.output.line, s.scn.output.segment + 1⟩
      else if s.scn.output.line + 1 < s.height then some ⟨s.scn.output.line + 1, 0⟩ else none) →
    ∃ (t : State) (rgb : List Rgb) (fifo : List Segment) (fetch : Option SegPos),
      exec .segmentTaken s = .next t ∧
      (match s.scn.front, s.scn.fifo with
        | some _, g :: gs => rgb = g.pixels.map (fun p : Pixel => (⟨p.r, p.g, p.b⟩ : Rgb)) ∧
          fifo = gs ∧ fetch = s.scn.fetch ∧ t.stu = s.stu
        | some _, [] => rgb = List.replicate 64 ⟨0, 0, 0⟩ ∧ fifo = [] ∧
          fetch = (if s.scn.fetch = some s.scn.output then next else s.scn.fetch) ∧
          t.stu = Stu.counted .underflow s.stu
        | none, q => rgb = List.replicate 64 ⟨0, 0, 0⟩ ∧ fifo = q ∧
          fetch = (if s.scn.fetch = some s.scn.output then next else s.scn.fetch) ∧
          t.stu = s.stu) ∧
      t.scn = { s.scn with
        panel := if next.isSome then .lines else .blanking
        taken := some ⟨s.scn.output, rgb⟩, fifo := fifo, fetch := fetch
        output := next.getD s.scn.output
        phase := if next.isSome then .active else .ended } ∧
      SameBut [.scn, .stu] s t

/-! ## Readback and status -/

/-- The seven steps of a READ_REQUEST at a MEMBER, in order: the fields, the selector, the frame, the tile,
the frame's state, the free entries and the tag. A request that passes them all and stands is a read
record at the tail of the read queue, and its frame takes a pin; one passed at an earlier step, and one
at a station that is no MEMBER, changes nothing. Where the verdict comes alone, the entry set aside is so
kept while its frame is held in DRAINED or later, RETIRING included, and is given back, with no record and
no pin, when a pulse has dropped the frame. -/
def Obligations.ReadRequestIsDecidedAndKept : Prop :=
  (∀ (h : Heard) (tag : Byte) (sel : Option FrameNo) (x y w ht : BitVec 16) (m : Message) (valid : Prop)
    (s : State), m = .readRequest tag sel x y w ht → s.hearsOther .readRequest h m →
    (valid ↔ w ≠ 0 ∧ ht ≠ 0 ∧ x.toNat + w.toNat ≤ 65536 ∧ y.toNat + ht.toNat ≤ 65536) →
    ∃ t u, exec (.readRequest (.checkCode h)) s = .next t ∧
      exec (.readRequest (.whole h .clear)) s = .next u ∧
      (s.mbr.state ≠ .member ∨ Passes .nothing .readRequest h m s t →
        u.tbi = s.tbi.passedBy ∧ SameBut [.tbi] s u) ∧
      (s.mbr.state = .member →
        (¬valid → Refuses .badField .readRequest h m s t) ∧
        (valid → sel = none →
          (∀ r ∈ s.ftc.records, r.state ≠ .committed ∧ r.state ≠ .shown) →
          Passes .nothing .readRequest h m s t) ∧
        (∀ n, valid → s.ftc.selects sel n → s.ftc.find n = none →
          (∀ f, s.ftc.f0 = some f → n ≠ f - 1 → n ≠ f - 2 →
            Refuses .frameState .readRequest h m s t) ∧
          (s.ftc.f0 = none ∨ s.ftc.f0 = some (n + 1) ∨ s.ftc.f0 = some (n + 2) →
            Passes .nothing .readRequest h m s t)) ∧
        (∀ n r, valid → s.ftc.selects sel n → s.ftc.find n = some r →
          (s.clip x y w ht = none → Passes .nothing .readRequest h m s t) ∧
          (∀ c, s.clip x y w ht = some c →
            (r.state ∈ [FrameState.init, .filling, .sealed, .retiring] →
              Refuses .frameState .readRequest h m s t) ∧
            (r.state ∈ [FrameState.drained, .ready, .committed, .shown] →
              (4 ≤ s.rbe.length → Refuses .readQueueFull .readRequest h m s t) ∧
              (s.rbe.length < 4 →
                (∃ k ∈ s.rbe, k.requester = wordParty h.word ∧ k.tag = tag) →
                Refuses .badField .readRequest h m s t) ∧
              (∀ k : ReadRecord, s.rbe.length < 4 →
                (∀ d ∈ s.rbe, d.requester = wordParty h.word → d.tag ≠ tag) →
                k = { requester := wordParty h.word, tag, frame := n, buffer := r.buffer
                      rect := c, row := 0, col := 0, nextChunk := 0, unconfirmed := 0 } →
                Passes (.read k) .readRequest h m s t ∧
                u.tbi = s.tbi.passedBy ∧ u.rbe = s.rbe ++ [k] ∧
                u.ftc = { s.ftc with records := s.ftc.records.map fun f =>
                  if f.frame = n then { f with pins := f.pins + 1 } else f } ∧
                SameBut [.tbi, .rbe, .ftc] s u)))))) ∧
  ∀ (k : ReadRecord) (s : State), s.hasSetAside .readRequest (.read k) →
    ∃ t, exec (.readRequest (.verdict .clear)) s = .next t ∧
      t.tbi = { s.tbi with receiving := none } ∧
      (∀ f, s.ftc.find k.frame = some f →
        f.state ∈ [FrameState.drained, .ready, .committed, .shown, .retiring] →
        t.rbe = s.rbe ++ [k] ∧
        t.ftc = { s.ftc with records := s.ftc.records.map fun x =>
          if x.frame = k.frame then { x with pins := x.pins + 1 } else x }) ∧
      (s.ftc.find k.frame = none → SameBut [.tbi] s t) ∧ SameBut [.tbi, .rbe, .ftc] s t

/-- READ_CANCEL at a MEMBER removes the sender's record with the tag: its pin is dropped, its replies leave
the queue, and a READ burst in flight for it loses its work. Without such a record, and at no MEMBER,
nothing changes. The own READ_REPLY stands: its record has one unconfirmed reply fewer, and the last
chunk ends the record and drops its pin. Another station's changes nothing. -/
def Obligations.CancelsAndRepliesEndTheirRecords : Prop :=
  (∀ (h : Heard) (tag : Byte) (s : State), s.hearsOther .readCancel h (.readCancel tag) →
    ∃ t, exec (.readCancel (.whole h .clear)) s = .next t ∧
      (s.mbr.state ≠ .member ∨
          (∀ k ∈ s.rbe, k.requester = wordParty h.word → k.tag ≠ tag) →
        t.tbi = s.tbi.passedBy ∧ SameBut [.tbi] s t) ∧
      (∀ k, s.mbr.state = .member →
        (s.rbe.find? fun d => d.requester == wordParty h.word && d.tag == tag) = some k →
        t.rbe = s.rbe.filter (fun d => !(d.requester == wordParty h.word && d.tag == tag)) ∧
        t.tbi = { s.tbi.passedBy with queue := s.tbi.queue.filter fun d =>
          d.status == .sending || match d.msg with
            | .readReply b => !(b.requester.toNat == wordParty h.word && b.tag == tag)
            | _ => true } ∧
        t.mar = { s.mar with burst := s.mar.burst.map fun b =>
          { b with dropped := b.dropped || match b.work with
            | .read _ q g => q == wordParty h.word && g == tag
            | _ => false } } ∧
        PinDropped k.frame s.toStation t.toStation ∧ SameBut [.tbi, .rbe, .mar, .ftc] s t)) ∧
  ∀ (h : Heard) (b : ReplyBody) (s : State),
    (s.hearsOther .readReply h (.readReply b) →
      ∃ t, exec (.readReply (.whole h .clear)) s = .next t ∧ t.tbi = s.tbi.passedBy ∧
        SameBut [.tbi] s t) ∧
    (∀ e, s.hearsOwn .readReply h (.readReply b) e →
      ∃ t, exec (.readReply (.whole h .clear)) s = .next t ∧ t.tbi = s.tbi.ownPassed ∧
        (b.last = false →
          t.rbe = s.rbe.map (fun d =>
            if d.requester = b.requester.toNat ∧ d.tag = b.tag then
              { d with unconfirmed := d.unconfirmed - 1 } else d) ∧
          t.ftc = s.ftc) ∧
        (b.last = true →
          t.rbe = s.rbe.filter (fun d => !(d.requester == b.requester.toNat && d.tag == b.tag)) ∧
          (∀ k, (s.rbe.find? fun d => d.requester == b.requester.toNat && d.tag == b.tag) =
              some k → PinDropped k.frame s.toStation t.toStation) ∧
          ((∀ d ∈ s.rbe, d.requester = b.requester.toNat → d.tag ≠ b.tag) → t.ftc = s.ftc)) ∧
        SameBut [.tbi, .rbe, .ftc] s t)

/-- STATUS_QUERY of this station, in every station state: an entry with the sender and the clear flag is
queued and the pending report flag set, or the entry pending takes the sender and joins the clear flags.
Of another station it changes nothing. The own STATUS_REPORT stands: it leaves the queue and the flag is
cleared; another station's changes nothing. -/
def Obligations.QueriesQueueOrMergeOneReport : Prop :=
  (∀ (h : Heard) (x : Byte) (clear : Bool) (s : State),
    s.hearsOther .statusQuery h (.statusQuery x clear) →
    ∃ t, exec (.statusQuery (.whole h .clear)) s = .next t ∧
      (x.toNat ≠ s.number → t.tbi = s.tbi.passedBy ∧ t.stu = s.stu) ∧
      (x.toNat = s.number → s.stu.pendingReport = false →
        t.tbi = { s.tbi.passedBy with
          queue := s.tbi.queue ++ [⟨.statusReport (wordParty h.word) clear, .waiting⟩] } ∧
        t.stu = { s.stu with pendingReport := true }) ∧
      (x.toNat = s.number → s.stu.pendingReport = true →
        t.tbi = { s.tbi.passedBy with queue := s.tbi.queue.map fun d =>
          match d.msg with
          | .statusReport _ c => ⟨.statusReport (wordParty h.word) (c || clear), d.status⟩
          | _ => d } ∧
        t.stu = s.stu) ∧
      SameBut [.tbi, .stu] s t) ∧
  ∀ (h : Heard) (q : Byte) (record : List Byte) (s : State),
    (s.hearsOther .statusReport h (.statusReport q record) →
      ∃ t, exec (.statusReport (.whole h .clear)) s = .next t ∧ t.tbi = s.tbi.passedBy ∧
        SameBut [.tbi] s t) ∧
    (∀ e, s.hearsOwn .statusReport h (.statusReport q record) e →
      ∃ t, exec (.statusReport (.whole h .clear)) s = .next t ∧ t.tbi = s.tbi.ownPassed ∧
        t.stu = { s.stu with pendingReport := false } ∧ SameBut [.tbi, .stu] s t)

/-! ## Headline statements -/

/-- Whatever a sender drives for a message it may send reads back, at every station, as that message with
every field at its value. The report that a station assembles has the fields of the table of 11.4, in its
order and widths, at the values its blocks hold, the frame records in the order in which they are held
(DEDUCED to be the order of R185, log 16), and the length that its own counts declare. -/
def Obligations.MessagesReadAsTheyWereSent : Prop :=
  (∀ (m : Message) (p : Nat), m.sendable p →
    readMessage m.kind (m.sentBy p) = some m ∧ wordParty (m.sentBy p).word = p) ∧
  ∀ s : Station,
    s.report.bytes = s.reportFields.flatMap (fun f => bigEndian f.1 f.2) ∧
    (∀ x < 32, s.mbr.memberSet.getLsbD x = s.mbr.isMember x) ∧
    s.report.bytes.length = 75 + 12 * s.ftc.records.length + 5 * s.rbe.length ∧
    (s.ftc.records.length < 256 → s.rbe.length < 256 → reportLengthFits s.report.bytes = true)

/-- The tile memory keeps its canonical form at every step from every state that has it. -/
def Obligations.MemoryStaysCanonical : Prop :=
  ∀ s t : State, Memory.wf s.mem = true → step s = .next t → Memory.wf t.mem = true

/-- Every step from a sound station leaves it sound: the memory canonical, the queues, the FIFO, the debt,
the streak, the retries and the watches within their bounds, each requester once in the grant history,
the marks those of the burst in flight, one active job, no frame work and no duty holder outside MEMBER, one offer,
the ready stations among the required ones, and the panel's output that of its raster phase. -/
def Obligations.EveryStepKeepsTheStationSound : Prop :=
  ∀ s t : State, s.Sound → step s = .next t → t.Sound
end

