-- ==== Sys2Proof/Laws/Blocks.lean ====
section
/-! SUPPORT. Which blocks each operation can touch, one lemma for each operation, and the message and pulse
commands as one operation each. -/

namespace Sys2Proof.Machine

/-! ## Touching blocks -/

/-- Every block but the listed ones is the same. -/
def Touches (l : List Block) (s t : Station) : Prop := ∀ b, b ∉ l → b.same s t

theorem Touches.refl (l : List Block) (s : Station) : Touches l s s := fun b _ => Block.same_refl b s

theorem Block.same_trans {b : Block} {s t u : Station} (h : b.same s t) (h' : b.same t u) :
    b.same s u := by
  cases b <;> first | exact Eq.trans h' h | exact fun a => (h' a).trans (h a)

theorem Touches.trans {l : List Block} {s t u : Station} (h : Touches l s t) (h' : Touches l t u) :
    Touches l s u := fun b hb => Block.same_trans (h b hb) (h' b hb)

theorem Touches.mono {l l' : List Block} {s t : Station} (h : Touches l s t) (hl : ∀ b ∈ l, b ∈ l') :
    Touches l' s t := fun b hb => h b fun hm => hb (hl b hm)

/-- A state with another station and the same queue. -/
def State.putStation (s : State) (t : Station) : State := { s with toStation := t }

@[simp] theorem State.putStation_toStation (s : State) (t : Station) :
    (s.putStation t).toStation = t := rfl

@[simp] theorem State.putStation_pending (s : State) (t : Station) :
    (s.putStation t).pending = s.pending := rfl

/-- A frame of states is one of stations, with the queue kept. -/
theorem SameBut.of_touches {l : List Block} {s : State} {t : Station}
    (h : Touches l s.toStation t) : SameBut l s (s.putStation t) := ⟨rfl, h⟩

theorem touches_onTbi (f : Tbi → Tbi) (s : Station) : Touches [.tbi] s (s.onTbi f) := by
  intro b hb; cases b <;> first | exact absurd hb (by decide) | rfl | exact fun _ => rfl

theorem touches_onMbr (f : Mbr → Mbr) (s : Station) : Touches [.mbr] s (s.onMbr f) := by
  intro b hb; cases b <;> first | exact absurd hb (by decide) | rfl | exact fun _ => rfl

theorem touches_onFtc (f : Ftc → Ftc) (s : Station) : Touches [.ftc] s (s.onFtc f) := by
  intro b hb; cases b <;> first | exact absurd hb (by decide) | rfl | exact fun _ => rfl

theorem touches_onInq (f : List ApplyRecord → List ApplyRecord) (s : Station) :
    Touches [.inq] s (s.onInq f) := by
  intro b hb; cases b <;> first | exact absurd hb (by decide) | rfl | exact fun _ => rfl

theorem touches_onFie (f : List InitJob → List InitJob) (s : Station) :
    Touches [.fie] s (s.onFie f) := by
  intro b hb; cases b <;> first | exact absurd hb (by decide) | rfl | exact fun _ => rfl

theorem touches_onRbe (f : List ReadRecord → List ReadRecord) (s : Station) :
    Touches [.rbe] s (s.onRbe f) := by
  intro b hb; cases b <;> first | exact absurd hb (by decide) | rfl | exact fun _ => rfl

theorem touches_onMar (f : Mar → Mar) (s : Station) : Touches [.mar] s (s.onMar f) := by
  intro b hb; cases b <;> first | exact absurd hb (by decide) | rfl | exact fun _ => rfl

theorem touches_onScn (f : Scn → Scn) (s : Station) : Touches [.scn] s (s.onScn f) := by
  intro b hb; cases b <;> first | exact absurd hb (by decide) | rfl | exact fun _ => rfl

theorem touches_onStu (f : Stu → Stu) (s : Station) : Touches [.stu] s (s.onStu f) := by
  intro b hb; cases b <;> first | exact absurd hb (by decide) | rfl | exact fun _ => rfl

theorem touches_onMem (f : Memory → Memory) (s : Station) : Touches [.mem] s (s.onMem f) := by
  intro b hb; cases b <;> first | exact absurd hb (by decide) | rfl

theorem touches_count (c : Counter) (s : Station) : Touches [.stu] s (s.count c) := touches_onStu _ s

/-- Two operations after one another. -/
theorem Touches.step {l l₁ l₂ : List Block} {s t u : Station} (h : Touches l₁ s t) (h' : Touches l₂ t u)
    (h₁ : ∀ b ∈ l₁, b ∈ l) (h₂ : ∀ b ∈ l₂, b ∈ l) : Touches l s u :=
  (h.mono h₁).trans (h'.mono h₂)

/-! ## Frames and jobs -/

theorem touches_queueReady (n : FrameNo) (s : Station) : Touches [.tbi] s (s.queueReady n) := by
  unfold Station.queueReady
  repeat' split
  all_goals first | exact touches_onTbi _ _ | exact .refl _ _

theorem touches_beginCopy (s : Station) : Touches [.fie, .ftc] s s.beginCopy := by
  unfold Station.beginCopy
  repeat' split
  · exact .step (touches_onFie _ _) (touches_onFtc _ _) (by decide) (by decide)
  all_goals exact .refl _ _

theorem touches_wakeCopy (n : FrameNo) (s : Station) : Touches [.fie, .ftc] s (s.wakeCopy n) := by
  unfold Station.wakeCopy
  repeat' split
  · exact touches_beginCopy s
  all_goals exact .refl _ _

theorem touches_drain (n : FrameNo) (s : Station) : Touches [.tbi, .ftc, .fie] s (s.drain n) :=
  .step (.step (l := [.tbi, .ftc]) (touches_onFtc _ s) (touches_queueReady n _) (by decide) (by decide))
    (touches_wakeCopy n _) (by decide) (by decide)

theorem touches_applySeal (n : FrameNo) (s : Station) :
    Touches [.tbi, .ftc, .fie] s (s.applySeal n) := by
  unfold Station.applySeal
  repeat' split
  · exact (touches_onFtc _ _).mono (by decide)
  · exact touches_drain n s
  all_goals exact .refl _ _

theorem touches_initDone (n : FrameNo) (s : Station) :
    Touches [.tbi, .ftc, .fie] s (s.initDone n) := by
  unfold Station.initDone
  repeat' split
  · exact (touches_onFtc _ _).mono (by decide)
  · exact (touches_onFtc _ _).mono (by decide)
  · exact touches_drain n s
  all_goals exact .refl _ _

theorem touches_pendingDown (n : FrameNo) (s : Station) :
    Touches [.tbi, .ftc, .fie] s (s.pendingDown n) := by
  unfold Station.pendingDown
  dsimp only
  repeat' split
  · exact .step (touches_onFtc _ _) (touches_drain n _) (by decide) (by decide)
  all_goals exact (touches_onFtc _ _).mono (by decide)

theorem touches_activateJob (s : Station) : Touches [.fie, .ftc] s s.activateJob := by
  unfold Station.activateJob
  repeat' split
  · exact (touches_onFie _ _).mono (by decide)
  · exact touches_beginCopy s
  · exact (touches_onFie _ _).mono (by decide)
  · exact (touches_onFie _ _).mono (by decide)
  all_goals exact .refl _ _

theorem touches_addJob (n : FrameNo) (w : InitWork) (b : Buf) (s : Station) :
    Touches [.fie, .ftc] s (s.addJob n w b) :=
  .step (touches_onFie _ s) (touches_activateJob _) (by decide) (by decide)

theorem touches_completeJob (s : Station) : Touches [.tbi, .ftc, .fie] s s.completeJob := by
  unfold Station.completeJob
  split
  · refine .step (l₁ := [.tbi, .ftc, .fie]) ?_ (touches_activateJob _) (by decide) (by decide)
    refine .step (l₁ := [.ftc, .fie]) ?_ (touches_initDone _ _) (by decide) (by decide)
    refine .step (l₁ := [.ftc]) ?_ (touches_onFie _ _) (by decide) (by decide)
    split
    · exact touches_onFtc _ _
    · exact .refl _ _
  · exact .refl _ _

theorem touches_takeInit (n : FrameNo) (m : InitMode) (c : Pixel) (b : Buf) (s : Station) :
    Touches [.tbi, .ftc, .fie, .stu] s (s.takeInit n m c b) := by
  unfold Station.takeInit
  repeat' split
  · exact (touches_addJob _ _ _ _).mono (by decide)
  · exact (touches_addJob _ _ _ _).mono (by decide)
  · exact .step (touches_count _ _) (touches_addJob _ _ _ _) (by decide) (by decide)
  · exact (touches_initDone _ _).mono (by decide)

theorem touches_commit (r : Refresh) (late : Bool) (s : Station) :
    Touches [.tbi, .ftc, .stu] s (s.commit r late) := by
  unfold Station.commit
  split
  · exact .refl _ _
  · split
    · refine .step (l₁ := [.ftc, .stu]) ?_ (touches_queueReady _ _) (by decide) (by decide)
      split
      · exact .step (touches_onFtc _ _) (touches_count _ _) (by decide) (by decide)
      · exact (touches_onFtc _ _).mono (by decide)
    · exact .refl _ _

/-! ## The commit decision (R80) -/

/-- The record that an accepted TICK commits, if one does, is the only one it can. -/
theorem Station.commit_of_commits {s : Station} (r : Refresh) (late : Bool) {x : FrameRecord}
    (h : s.ftc.commits x) :
    s.commit r late =
      ((if late then (s.onFtc (Ftc.onRecord x.frame fun y =>
            { y with state := .committed, showRefresh := some r })).count .lateShow
        else s.onFtc (Ftc.onRecord x.frame fun y =>
            { y with state := .committed, showRefresh := some r })).queueReady (x.frame + 1)) := by
  obtain ⟨h1, h2, h3, h4⟩ := h
  have ready : s.ftc.oldest (· == .ready) = some x := h1
  simp only [Station.commit, ready]
  rw [if_pos]
  refine ⟨?_, ?_, ?_⟩
  · have within : x.requiredStations &&& ~~~x.readyStations = 0 := by
      apply BitVec.eq_of_getLsbD_eq
      intro i hi
      by_cases hr : x.requiredStations.getLsbD i = true
      · simp [hr, h2 i hr]
      · simp [hr]
    simp [FrameRecord.barrierComplete, setWithin, within]
  · simp only [Ftc.predecessorCommitted]
    cases hp : s.ftc.find (x.frame - 1) with
    | none => rfl
    | some p => rcases h3 p hp with h | h | h <;> simp [h, FrameState.hasCommitted]
  · simpa [Ftc.oldest] using h4

/-- An accepted TICK commits nothing when no record meets the conditions. -/
theorem Station.commit_of_none {s : Station} (r : Refresh) (late : Bool)
    (h : ∀ x, ¬s.ftc.commits x) : s.commit r late = s := by
  unfold Station.commit
  split
  · rfl
  · rename_i x hx
    rw [if_neg]
    rintro ⟨h1, h2, h3⟩
    refine h x ⟨hx, fun i hi => ?_, fun p hp => ?_, by simpa [Ftc.oldest] using h3⟩
    · simp only [FrameRecord.barrierComplete, setWithin, beq_iff_eq] at h1
      have bit := congrArg (fun v => v.getLsbD i) h1
      have hlt : i < 32 := BitVec.lt_of_getLsbD hi
      simpa [hi, hlt] using bit
    · simp only [Ftc.predecessorCommitted, hp] at h2
      cases hs : p.state <;> simp_all [FrameState.hasCommitted]

/-! ## Grants and completions -/

theorem touches_grant (r : Requester) (s : Station) : Touches [.mar, .ftc] s (s.grant r) := by
  unfold Station.grant
  split
  · exact .step (touches_onMar _ _) (touches_onFtc _ _) (by decide) (by decide)
  · exact .refl _ _

theorem touches_decideGrant (s : Station) : Touches [.mar, .ftc] s s.decideGrant := by
  unfold Station.decideGrant
  split
  · exact touches_grant _ _
  · exact .refl _ _

/-- A grant of the buffers of a list: their marks are set, nothing else of the table moves. -/
theorem Ftc.markAll_get (bs : List Buf) (t : Ftc) (b : Buf) :
    (t.markAll bs).buffers.get b =
      if b ∈ bs then { t.buffers.get b with inFlight := true } else t.buffers.get b := by
  induction bs generalizing t with
  | nil => simp [Ftc.markAll]
  | cons c bs ih =>
    have := ih (t.onBuffer c BufDesc.mark)
    simp only [Ftc.markAll, List.foldl_cons] at this ⊢
    rw [this]
    by_cases hc : b = c <;> by_cases hb : b ∈ bs <;>
      simp [Ftc.onBuffer, Buffers.get_set, hc, hb, BufDesc.mark]

theorem Ftc.markAll_eq (bs : List Buf) (t : Ftc) :
    t.markAll bs = { t with buffers := (t.markAll bs).buffers } := by
  induction bs generalizing t with
  | nil => rfl
  | cons c bs ih => exact ih (t.onBuffer c BufDesc.mark)

theorem Ftc.unmarkAll_eq (bs : List Buf) (t : Ftc) :
    t.unmarkAll bs = { t with buffers := (t.unmarkAll bs).buffers } := by
  induction bs generalizing t with
  | nil => rfl
  | cons c bs ih => exact ih (t.onBuffer c BufDesc.unmark)

theorem BufDesc.unmark_unmark (d : BufDesc) : d.unmark.unmark = d.unmark := by
  obtain ⟨st, f, m⟩ := d
  cases st <;> rfl

/-- The marks of a list of buffers are cleared, a RELEASING one of them is FREE. -/
theorem Ftc.unmarkAll_get (bs : List Buf) (t : Ftc) (b : Buf) :
    (t.unmarkAll bs).buffers.get b =
      if b ∈ bs then (t.buffers.get b).unmark else t.buffers.get b := by
  induction bs generalizing t with
  | nil => simp [Ftc.unmarkAll]
  | cons c bs ih =>
    have := ih (t.onBuffer c BufDesc.unmark)
    simp only [Ftc.unmarkAll, List.foldl_cons] at this ⊢
    rw [this]
    by_cases hc : b = c
    · subst hc
      by_cases hb : b ∈ bs <;>
        simp [Ftc.onBuffer, Buffers.get_set, hb, BufDesc.unmark_unmark]
    · by_cases hb : b ∈ bs <;> simp [Ftc.onBuffer, Buffers.get_set, hc, hb]

/-! ## The duty holder's removal -/

@[simp] theorem Mbr.lose_dutyHolder (x : Nat) (m : Mbr) : (m.lose x).dutyHolder = m.dutyHolder := rfl

@[simp] theorem Mbr.lose_holderRemoved (x : Nat) (m : Mbr) :
    (m.lose x).holderRemoved = (m.holderRemoved || m.dutyHolder == some x) := rfl

/-- No TICK is accepted once the duty holder is removed (R43). -/
theorem Mbr.tickSender_lose {x : Nat} {m : Mbr} (h : m.dutyHolder = some x) :
    (m.lose x).tickSender = none := by
  simp [Mbr.tickSender, h]

/-- The removal of another station leaves the sender of the TICKs accepted. -/
theorem Mbr.tickSender_lose_other {x : Nat} {m : Mbr} (h : m.dutyHolder ≠ some x) :
    (m.lose x).tickSender = m.tickSender := by
  have : (m.dutyHolder == some x) = false := by simpa using h
  simp [Mbr.tickSender, this]

/-! ## Tiles at the wall -/

theorem tileTaken_iff (x : Nat) (tile : Tile) (i : Nat) (r : List RosterEntry) :
    tileTaken x tile i r = true ↔
      ∃ (j : Nat) (e : RosterEntry), r[j]? = some e ∧ e.member = true ∧ i + j ≠ x ∧
        e.tile = some tile := by
  induction r generalizing i with
  | nil => simp [tileTaken]
  | cons a r ih =>
    simp only [tileTaken, Bool.or_eq_true, ih, Bool.and_eq_true, bne_iff_ne, beq_iff_eq]
    constructor
    · rintro (⟨⟨h1, h2⟩, h3⟩ | ⟨j, e, h⟩)
      · exact ⟨0, a, rfl, h1, by simpa using h2, h3⟩
      · exact ⟨j + 1, e, by simpa using h.1, h.2.1, by have := h.2.2.1; omega, h.2.2.2⟩
    · rintro ⟨j, e, h1, h2, h3, h4⟩
      cases j with
      | zero =>
        left
        simp only [List.getElem?_cons_zero, Option.some.injEq] at h1
        subst h1
        exact ⟨⟨h2, by simpa using h3⟩, h4⟩
      | succ j => exact Or.inr ⟨j, e, by simpa using h1, h2, by omega, h4⟩

theorem Station.anyConflict_iff (s : Station) (i : Nat) (r : List RosterEntry) :
    s.anyConflict i r = true ↔
      ∃ (j : Nat) (e : RosterEntry), r[j]? = some e ∧ e.member = true ∧
        (i + j = s.number ∨ e.tile = some s.tile) := by
  induction r generalizing i with
  | nil => simp [Station.anyConflict]
  | cons a r ih =>
    simp only [Station.anyConflict, Station.entryConflicts, Bool.or_eq_true, ih, Bool.and_eq_true,
      beq_iff_eq]
    constructor
    · rintro (⟨h1, h2⟩ | ⟨j, e, h⟩)
      · exact ⟨0, a, rfl, h1, h2⟩
      · exact ⟨j + 1, e, by simpa using h.1, h.2.1, by
          rcases h.2.2 with h | h
          · left; omega
          · exact Or.inr h⟩
    · rintro ⟨j, e, h1, h2, h3⟩
      cases j with
      | zero =>
        left
        simp only [List.getElem?_cons_zero, Option.some.injEq] at h1
        subst h1
        exact ⟨h2, h3⟩
      | succ j =>
        refine Or.inr ⟨j, e, by simpa using h1, h2, ?_⟩
        rcases h3 with h3 | h3
        · left; omega
        · exact Or.inr h3

/-- The pre-check is the clash of the statements. -/
theorem Station.preCheckConflict_iff (s : Station) :
    s.preCheckConflict = true ↔ s.clashes s.mbr.roster := by
  simp [Station.preCheckConflict, Station.anyConflict_iff, Station.clashes]

/-- An entry of a roster mapped entry by entry. -/
theorem mapRoster_getElem? (f : Nat → RosterEntry → RosterEntry) (i : Nat) (r : List RosterEntry)
    (j : Nat) : (mapRoster f i r)[j]? = r[j]?.map (f (i + j)) := by
  induction r generalizing i j with
  | nil => simp [mapRoster]
  | cons a r ih =>
    cases j with
    | zero => simp [mapRoster]
    | succ j => simp [mapRoster, ih, Nat.add_comm, Nat.add_left_comm]

theorem mapRoster_length (f : Nat → RosterEntry → RosterEntry) (i : Nat) (r : List RosterEntry) :
    (mapRoster f i r).length = r.length := by
  induction r generalizing i with
  | nil => rfl
  | cons a r ih => simp [mapRoster, ih]

/-! ## Message and pulse commands as one operation each -/

/-- The decision on each kind. -/
def decideOf : Kind → Decide
  | .suspect => decideSuspect
  | .join => decideJoin
  | .openFrame => decideOpen
  | .closeFrame => decideClose
  | .fill => decideFill
  | .run => decideRun
  | .readRequest => decideReadRequest
  | _ => passes

/-- What each kind does when it stands. -/
def standsOf : Kind → Stands
  | .tick => tickStands
  | .suspect => suspectStands
  | .join => joinStands
  | .leave => leaveStands
  | .wallReset => wallResetStands
  | .orderLeave => orderLeaveStands
  | .orderRejoin => orderRejoinStands
  | .drop => dropStands
  | .ready => readyStands
  | .beacon => beaconStands
  | .readReply => readReplyStands
  | .statusReport => statusReportStands
  | .openFrame => openStands
  | .closeFrame => closeStands
  | .fill => fillStands
  | .run => runStands
  | .readRequest => readRequestStands
  | .readCancel => readCancelStands
  | .statusQuery => statusQueryStands

theorem exec_commandOf (k : Kind) (e : MsgEvent) (s : State) :
    exec (commandOf k e) s = onLive (Station.message k (decideOf k) (standsOf k) e) s := by
  cases k <;> rfl

/-- The check code of a message of a listed kind. -/
theorem exec_checkCode {k : Kind} {h : Heard} {s : State} (ht : s.takes) :
    exec (commandOf k (.checkCode h)) s =
      .next (s.putStation (s.toStation.hear k (decideOf k) h)) := by
  rw [exec_commandOf, onLive_live ht.1]
  rfl

/-- The own message stands. -/
theorem exec_ownStands {k : Kind} {h : Heard} {m : Message} {e : TxEntry} {s : State}
    (ho : s.hearsOwn k h m e) :
    exec (commandOf k (.whole h Slots.clear)) s =
      .next (s.putStation (standsOf k (passedRecord k h m true .nothing)
        (s.toStation.onTbi Tbi.ownPassed))) := by
  rw [exec_commandOf, onLive_live ho.1.1, Station.message_ownStands _ _ ho]
  rfl

/-- The own message is void. -/
theorem exec_ownVoid {k : Kind} {h : Heard} {m : Message} {e : TxEntry} {v : Slots} {s : State}
    (ho : s.hearsOwn k h m e) (hv : slotsClear v = false) :
    exec (commandOf k (.whole h v)) s =
      .next (s.putStation ((s.toStation.onTbi Tbi.passedBy).ownVoid v.damage)) := by
  rw [exec_commandOf, onLive_live ho.1.1, Station.message_ownVoid _ _ ho hv]
  rfl

/-- An own message is void, whether this station found it damaged or heard it undamaged. -/
theorem exec_ownVoids {c : Instr} {e : TxEntry} {marked damage : Bool} {s : State}
    (ho : s.ownVoids c e marked damage) :
    exec c s = .next (s.putStation
      (((if marked then s.toStation.count .damageMarked else s.toStation).onTbi Tbi.passedBy).ownVoid
        damage)) := by
  obtain ⟨ht, hs, hi, h, v, rfl, hv, ⟨rfl, rfl, m, hr⟩ | ⟨rfl, k, rfl, hr⟩ | ⟨rfl, code, rfl, -⟩⟩ := ho
  · have clear : slotsClear v = false := by
      simp only [Bool.or_false] at hv
      rcases hv with hv | hv
      · exact Bool.and_eq_false_imp.mpr fun h => absurd (eq_of_beq h) hv
      · simp [slotsClear, hv]
    simp [exec_ownVoid ⟨ht, hs, hi, rfl, hr⟩ clear]
  · rw [exec_commandOf, onLive_live ht.1, Station.message_damaged _ _ _ ht hr]
    simp [hs, State.putStation]
  · rw [show exec (.unknownKind code (.whole h v)) s =
        onLive (Station.unknownMessage code (.whole h v)) s from rfl, onLive_live ht.1,
      Station.unknownMessage_whole _ ht]
    simp [hs, State.putStation]

/-- Another party's message that this MEMBER passes stands. -/
theorem exec_memberStands {k : Kind} {h : Heard} {m : Message} {a : SetAside} {s : State}
    (ho : s.hearsOther k h m) (hs : s.mbr.state = .member)
    (hd : decideOf k (wordParty h.word) m s.toStation = .pass a) :
    exec (commandOf k (.whole h Slots.clear)) s =
      .next (s.putStation (standsOf k (passedRecord k h m false a)
        (s.toStation.onTbi Tbi.passedBy))) := by
  rw [exec_commandOf, onLive_live ho.1.1, Station.message_passed _ _ ho hs hd]
  rfl

/-- Another party's message stands at a station that is no MEMBER. -/
theorem exec_nonMemberStands {k : Kind} {h : Heard} {m : Message} {s : State}
    (ho : s.hearsOther k h m) (hs : s.mbr.state ≠ .member) :
    exec (commandOf k (.whole h Slots.clear)) s =
      .next (s.putStation (standsOf k (passedRecord k h m false .nothing)
        (s.toStation.onTbi Tbi.passedBy))) := by
  rw [exec_commandOf, onLive_live ho.1.1, Station.message_nonMember _ _ _ ho hs]
  rfl

/-- Another party's message of a kind that nobody refuses stands. -/
theorem exec_passedStands {k : Kind} {h : Heard} {m : Message} {s : State} (ho : s.hearsOther k h m)
    (hd : decideOf k = passes) :
    exec (commandOf k (.whole h Slots.clear)) s =
      .next (s.putStation (standsOf k (passedRecord k h m false .nothing)
        (s.toStation.onTbi Tbi.passedBy))) := by
  rw [exec_commandOf, onLive_live ho.1.1, hd, Station.message_passes _ _ ho]
  rfl

/-- A pulse command. -/
theorem exec_pulseCommand {s : State} (src : PulseSource) (h : s.resetAsserted = false) :
    exec (pulseCommand src) s = .next (s.putStation (s.toStation.pulseFrom src)) := by
  cases src <;>
    simp [pulseCommand, exec, execWsyncEdge, execSyncLost, execFreeRunExpiry, onLive_live h,
      Station.pulseFrom, State.putStation]

end Sys2Proof.Machine
end

