-- ==== Sys2Proof/Laws/Buffers.lean ====
section
/-! SUPPORT. What the frame work does to the buffer descriptors: a pin that falls can release one, nothing
else between a burst's end and the next grant moves any. And what a burst of an apply record writes. -/

namespace Sys2Proof.Machine

/-! ## Operations that leave the buffers -/

@[simp] theorem Ftc.onRecord_buffers (n : FrameNo) (f : FrameRecord → FrameRecord) (t : Ftc) :
    (t.onRecord n f).buffers = t.buffers := rfl

@[simp] theorem Ftc.setState_buffers (n : FrameNo) (st : FrameState) (t : Ftc) :
    (t.setState n st).buffers = t.buffers := rfl

@[simp] theorem Ftc.pinUp_buffers (n : FrameNo) (t : Ftc) : (t.pinUp n).buffers = t.buffers := rfl

@[simp] theorem Station.queueReady_ftc (n : FrameNo) (s : Station) : (s.queueReady n).ftc = s.ftc := by
  unfold Station.queueReady
  (repeat' split) <;> simp

@[simp] theorem Station.beginCopy_buffers (s : Station) : s.beginCopy.ftc.buffers = s.ftc.buffers := by
  unfold Station.beginCopy
  (repeat' split) <;> simp

@[simp] theorem Station.wakeCopy_buffers (n : FrameNo) (s : Station) :
    (s.wakeCopy n).ftc.buffers = s.ftc.buffers := by
  unfold Station.wakeCopy
  (repeat' split) <;> simp

@[simp] theorem Station.drain_buffers (n : FrameNo) (s : Station) :
    (s.drain n).ftc.buffers = s.ftc.buffers := by
  simp [Station.drain]

@[simp] theorem Station.initDone_buffers (n : FrameNo) (s : Station) :
    (s.initDone n).ftc.buffers = s.ftc.buffers := by
  unfold Station.initDone
  (repeat' split) <;> simp

@[simp] theorem Station.pendingDown_buffers (n : FrameNo) (s : Station) :
    (s.pendingDown n).ftc.buffers = s.ftc.buffers := by
  unfold Station.pendingDown
  dsimp only
  (repeat' split) <;> simp

@[simp] theorem Station.activateJob_buffers (s : Station) : s.activateJob.ftc.buffers = s.ftc.buffers := by
  unfold Station.activateJob
  (repeat' split) <;> simp

@[simp] theorem Station.applyDone_buffers (n slot : Nat) (d : Bool) (s : Station) :
    (s.applyDone n slot d).ftc.buffers = s.ftc.buffers := by
  unfold Station.applyDone
  (repeat' split) <;> simp

@[simp] theorem Station.readDone_ftc (sp : Span) (q : Nat) (tag : Byte) (d : Bool) (s : Station) :
    (s.readDone sp q tag d).ftc = s.ftc := by
  unfold Station.readDone
  (repeat' split) <;> simp

@[simp] theorem Station.scanDone_ftc (b : Buf) (l g : Nat) (d : Bool) (s : Station) :
    (s.scanDone b l g d).ftc = s.ftc := by
  unfold Station.scanDone
  (repeat' split) <;> simp

/-! ## A pin that falls, and the end of a job -/

/-- The buffer whose RETIRING record loses its last pin when a pin of frame n falls (R69). -/
def Ftc.pinDownDrops (t : Ftc) (n : FrameNo) : Option Buf :=
  (t.find n).bind fun p => if p.state = .retiring ∧ p.pins ≤ 1 then some p.buffer else none

theorem Ftc.find_onRecord_self (t : Ftc) (n : FrameNo) (f : FrameRecord → FrameRecord)
    (hf : ∀ r, (f r).frame = r.frame) : (t.onRecord n f).find n = (t.find n).map f := by
  obtain ⟨bs, rs, lo, f0, rf⟩ := t
  simp only [Ftc.find, Ftc.onRecord]
  induction rs with
  | nil => rfl
  | cons r rs ih =>
    simp only [List.map_cons, List.find?_cons]
    by_cases h : r.frame = n
    · simp [h, hf]
    · have hb : (r.frame == n) = false := beq_eq_false_iff_ne.mpr h
      simpa [hb, h] using ih

theorem Ftc.pinDown_get (t : Ftc) (n : FrameNo) (b : Buf) :
    (t.pinDown n).buffers.get b =
      if t.pinDownDrops n = some b then (t.buffers.get b).release else t.buffers.get b := by
  have hfind : (t.onRecord n fun r => { r with pins := r.pins - 1 }).find n = _ :=
    Ftc.find_onRecord_self t n _ fun _ => rfl
  cases hp : t.find n with
  | none => simp [Ftc.pinDown, Ftc.pinDownDrops, hfind, hp]
  | some p =>
    by_cases h : p.state = .retiring ∧ p.pins ≤ 1
    · have h0 : p.state = .retiring ∧ p.pins - 1 = 0 := ⟨h.1, by omega⟩
      simp only [Ftc.pinDown, Ftc.pinDownDrops, Ftc.dropRecord, Ftc.release, Ftc.onBuffer, hfind, hp,
        Option.map_some, Option.bind_some, if_pos h0, if_pos h, Ftc.onRecord_buffers, Buffers.get_set,
        Option.some.injEq]
      by_cases hb : b = p.buffer
      · simp [hb]
      · simp [hb, Ne.symm hb]
    · have h0 : ¬(p.state = .retiring ∧ p.pins - 1 = 0) := fun c => h ⟨c.1, by omega⟩
      simp [Ftc.pinDown, Ftc.pinDownDrops, hfind, hp, if_neg h0, if_neg h]

theorem Station.completeJob_get {s : Station} {j : InitJob} {js : List InitJob} (h : s.fie = j :: js)
    (b : Buf) :
    s.completeJob.ftc.buffers.get b =
      if j.work = .copy ∧ s.ftc.pinDownDrops (j.frame - 1) = some b then
        (s.ftc.buffers.get b).release
      else s.ftc.buffers.get b := by
  simp only [Station.completeJob, h, Station.activateJob_buffers, Station.initDone_buffers,
    Station.onFie_ftc]
  by_cases hw : j.work = .copy <;> simp [hw, Ftc.pinDown_get]

/-! ## The end of a burst, before the next grant (R51, R138) -/

theorem BufDesc.release_eq (d : BufDesc) : d.release = d.released := rfl

theorem InitJob.advance_none {w h n : Nat} {j : InitJob} :
    j.advance w h n = none ↔ w ≤ j.col + n ∧ h ≤ j.row + 1 := by
  unfold InitJob.advance
  (repeat' split) <;> simp <;> omega

/-- The buffer that an INIT burst of n pixels takes from its RETIRING record at the end of a COPY. -/
def Station.jobEndDrops (n : Nat) (dropped : Bool) (s : Station) : Option Buf :=
  match s.fie with
  | j :: _ =>
    if dropped = false ∧ j.work = .copy ∧ s.width ≤ j.col + n ∧ s.height ≤ j.row + 1 then
      s.ftc.pinDownDrops (j.frame - 1)
    else none
  | [] => none

theorem Station.initBurstDone_get (n : Nat) (dropped : Bool) (s : Station) (x : Buf) :
    (s.initBurstDone n dropped).ftc.buffers.get x =
      if s.jobEndDrops n dropped = some x then (s.ftc.buffers.get x).release
      else s.ftc.buffers.get x := by
  unfold Station.initBurstDone Station.jobEndDrops
  cases hf : s.fie with
  | nil => cases dropped <;> simp
  | cons j js =>
    cases dropped with
    | true => simp
    | false =>
      cases ha : j.advance s.width s.height n with
      | none =>
        have last := InitJob.advance_none.mp ha
        by_cases hw : j.work = .copy <;> simp [ha, Station.completeJob_get hf, last, hw]
      | some j' =>
        have more : ¬(s.width ≤ j.col + n ∧ s.height ≤ j.row + 1) := fun h =>
          absurd (InitJob.advance_none.mpr h) (by simp [ha])
        simp [ha, more]

theorem Station.copyEndDrops_init (s : Station) {b : Burst} {sp : Span} (hr : b.work.requester = .init)
    (hw : b.work.written = some sp) : s.copyEndDrops b = s.jobEndDrops sp.count b.dropped := by
  unfold Station.copyEndDrops Station.jobEndDrops
  cases s.fie <;> simp [hr, hw, Ftc.pinDownDrops]

theorem Station.copyEndDrops_other (s : Station) {b : Burst} (hr : b.work.requester ≠ .init) :
    s.copyEndDrops b = none := by
  unfold Station.copyEndDrops
  (repeat' split) <;> simp_all

/-- What a completion leaves of a buffer, before the decision on the next grant. -/
theorem Station.requesterDone_get (b : Burst) (s : Station) (x : Buf) :
    ((s.endBurst b).requesterDone b).ftc.buffers.get x =
      if s.copyEndDrops b = some x then
        (if x ∈ b.work.targets then (s.ftc.buffers.get x).unmark else s.ftc.buffers.get x).release
      else if x ∈ b.work.targets then (s.ftc.buffers.get x).unmark else s.ftc.buffers.get x := by
  have base : (s.endBurst b).ftc.buffers.get x =
      if x ∈ b.work.targets then (s.ftc.buffers.get x).unmark else s.ftc.buffers.get x :=
    Ftc.unmarkAll_get ..
  have records : (s.endBurst b).ftc.records = s.ftc.records :=
    (congrArg Ftc.records (Ftc.unmarkAll_eq b.work.targets s.ftc) :)
  have drops (n : Nat) : (s.endBurst b).jobEndDrops n b.dropped = s.jobEndDrops n b.dropped := by
    have find (m : FrameNo) : (s.endBurst b).ftc.find m = s.ftc.find m := by simp [Ftc.find, records]
    simp only [Station.jobEndDrops, Ftc.pinDownDrops, find]
    rfl
  obtain ⟨w, d⟩ := b
  cases w
  case initFill | initCopy =>
    rw [Station.copyEndDrops_init s rfl rfl, ← base, ← drops]
    exact Station.initBurstDone_get ..
  all_goals
    rw [Station.copyEndDrops_other s (by simp [BurstWork.requester]), ← base]
    simp [Station.requesterDone, Station.mrefDone]

/-! ## The written values of a burst (R105) -/

theorem ApplyRecord.values_length (k : ApplyRecord) (n : Nat) : (k.values n).length ≤ n := by
  unfold ApplyRecord.values
  split
  · exact Nat.le_of_eq List.length_replicate
  · exact List.length_take_le ..

theorem ApplyRecord.values_fill {k : ApplyRecord} {c : Pixel} (h : k.paint = .fill c) {n l : Nat}
    (hl : l < n) : (k.values n)[l]? = some c := by
  simp [ApplyRecord.values, h, hl]

theorem ApplyRecord.values_run {k : ApplyRecord} {ps : List Pixel} (h : k.paint = .run ps) {n l : Nat}
    (hl : l < n) : (k.values n)[l]? = ps[k.row * k.rect.width + k.col + l]? := by
  simp [ApplyRecord.values, h, hl]

end Sys2Proof.Machine
end

