-- ==== Sys2Proof/Laws/Still.lean ====
section
/-! SUPPORT. The operations that leave the tile memory, the straps, the reset flag and the free-value counter
as they are, one lemma for each. Only a burst's end and the pin reset write the memory. -/

namespace Sys2Proof.Machine

/-- The four fields that most operations never touch. -/
abbrev Still (s t : Station) : Prop :=
  t.mem = s.mem ∧ t.straps = s.straps ∧ t.resetAsserted = s.resetAsserted ∧ t.free = s.free

theorem still_count (c : Counter) (s : Station) : Still s (s.count c) := ⟨rfl, rfl, rfl, rfl⟩

theorem still_queueReady (n : FrameNo) (s : Station) : Still s (s.queueReady n) := by
  unfold Station.queueReady
  (repeat' split) <;> simp [Still]

theorem still_beginCopy (s : Station) : Still s (s.beginCopy) := by
  unfold Station.beginCopy
  (repeat' split) <;> simp [Still]

theorem still_wakeCopy (n : FrameNo) (s : Station) : Still s (s.wakeCopy n) := by
  unfold Station.wakeCopy
  (repeat' split) <;> simp [Still, still_beginCopy]

theorem still_drain (n : FrameNo) (s : Station) : Still s (s.drain n) := by
  simp [Still, Station.drain, still_queueReady, still_wakeCopy]

theorem still_applySeal (n : FrameNo) (s : Station) : Still s (s.applySeal n) := by
  unfold Station.applySeal
  (repeat' split) <;> simp [Still, still_drain]

theorem still_initDone (n : FrameNo) (s : Station) : Still s (s.initDone n) := by
  unfold Station.initDone
  (repeat' split) <;> simp [Still, still_drain]

theorem still_pendingDown (n : FrameNo) (s : Station) : Still s (s.pendingDown n) := by
  unfold Station.pendingDown
  dsimp only
  (repeat' split) <;> simp [Still, still_drain]

theorem still_activateJob (s : Station) : Still s (s.activateJob) := by
  unfold Station.activateJob
  (repeat' split) <;> simp [Still, still_beginCopy]

theorem still_addJob (n : FrameNo) (w : InitWork) (b : Buf) (s : Station) : Still s (s.addJob n w b) := by
  simp [Still, Station.addJob, still_activateJob]

theorem still_takeInit (n : FrameNo) (m : InitMode) (c : Pixel) (b : Buf) (s : Station) :
    Still s (s.takeInit n m c b) := by
  unfold Station.takeInit
  (repeat' split) <;> simp [Still, still_initDone, still_addJob]

theorem still_completeJob (s : Station) : Still s (s.completeJob) := by
  unfold Station.completeJob
  dsimp only
  (repeat' split) <;> simp [Still, still_initDone, still_activateJob]

theorem still_openRecord (n : FrameNo) (m : InitMode) (c : Option Pixel) (q : PartySet) (s : Station) :
    Still s (s.openRecord n m c q) := by
  unfold Station.openRecord
  dsimp only
  (repeat' split) <;> simp [Still, still_takeInit]

theorem still_closeRecord (n : FrameNo) (x : Nat) (s : Station) : Still s (s.closeRecord n x) := by
  simp [Still, Station.closeRecord, still_applySeal]

theorem still_applySeals (l : List FrameNo) (s : Station) :
    Still s (l.foldl (fun s n => s.applySeal n) s) := by
  induction l generalizing s with
  | nil => exact ⟨rfl, rfl, rfl, rfl⟩
  | cons n l ih => simp [Still, ih (s.applySeal n), still_applySeal]

theorem still_dropSource (p : Nat) (s : Station) : Still s (s.dropSource p) := by
  unfold Station.dropSource
  dsimp only
  split
  · exact still_applySeals _ _
  · exact ⟨rfl, rfl, rfl, rfl⟩

theorem still_commit (r : Refresh) (l : Bool) (s : Station) : Still s (s.commit r l) := by
  unfold Station.commit
  dsimp only
  (repeat' split) <;> simp [Still, still_queueReady]

theorem still_acceptTick (r : Refresh) (s : Station) : Still s (s.acceptTick r) := by
  unfold Station.acceptTick
  (repeat' split) <;> simp [Still, still_commit]

theorem still_stallPulse (s : Station) : Still s (s.stallPulse) := by
  unfold Station.stallPulse
  dsimp only
  (repeat' split) <;> simp [Still]

theorem still_ftcPulse (s : Station) : Still s (s.ftcPulse) := by
  unfold Station.ftcPulse
  dsimp only
  (repeat' split) <;> simp [Still, still_stallPulse]

theorem still_setPendingReport (v : Bool) (s : Station) : Still s (s.setPendingReport v) := ⟨rfl, rfl, rfl, rfl⟩

theorem still_zeroCounters (s : Station) : Still s (s.zeroCounters) := ⟨rfl, rfl, rfl, rfl⟩

theorem still_takeQuery (q : Nat) (c : Bool) (s : Station) : Still s (s.takeQuery q c) := by
  unfold Station.takeQuery
  (repeat' split) <;> simp [Still]

theorem still_withdraw (d : StationState) (s : Station) : Still s (s.withdraw d) := by
  simp [Still, Station.withdraw]

theorem still_winArbitration (e : TxEntry) (s : Station) : Still s (s.winArbitration e) := by
  unfold Station.winArbitration
  dsimp only
  (repeat' split) <;> simp [Still]

theorem still_arbitrate (o : List Byte) (s : Station) : Still s (s.arbitrate o) := by
  unfold Station.arbitrate
  dsimp only
  (repeat' split) <;> simp [Still, still_winArbitration]

theorem still_hearDamaged (c : Byte) (h : Heard) (s : Station) : Still s (s.hearDamaged c h) := by
  simp [Still, Station.hearDamaged]

theorem still_hearUndamaged (c : Byte) (x : Nat) (m : Message) (d : Decide) (s : Station) :
    Still s (s.hearUndamaged c x m d) := by
  unfold Station.hearUndamaged
  dsimp only
  (repeat' split) <;> simp [Still]

theorem still_hear (k : Kind) (d : Decide) (h : Heard) (s : Station) : Still s (s.hear k d h) := by
  unfold Station.hear
  (repeat' split) <;> simp [Still, still_hearDamaged, still_hearUndamaged]

theorem still_hearUnknown (c : Byte) (h : Heard) (s : Station) : Still s (s.hearUnknown c h) := by
  unfold Station.hearUnknown
  (repeat' split) <;> simp [Still, still_hearDamaged]

theorem still_reject (s : Station) : Still s (s.reject) := by
  simp [Still, Station.reject]

theorem still_joinVoid (s : Station) : Still s (s.joinVoid) := by
  unfold Station.joinVoid
  (repeat' split) <;> simp [Still, still_reject]

theorem still_ownVoidKind (m : TxMsg) (s : Station) : Still s (s.ownVoidKind m) := by
  unfold Station.ownVoidKind
  (repeat' split) <;> simp [Still, still_joinVoid]

theorem still_streak (d : Bool) (s : Station) : Still s (s.streak d) := by
  unfold Station.streak
  (repeat' split) <;> simp [Still, still_withdraw]

theorem still_ownVoid (d : Bool) (s : Station) : Still s (s.ownVoid d) := by
  unfold Station.ownVoid
  dsimp only
  (repeat' split) <;> simp [Still, still_ownVoidKind, still_streak]

theorem still_closeReceiving (r : Receiving) (s : Station) : Still s (s.closeReceiving r) := by
  unfold Station.closeReceiving
  (repeat' split) <;> simp [Still]

theorem still_preCheck (s : Station) : Still s (s.preCheck) := by
  unfold Station.preCheck
  (repeat' split) <;> simp [Still, still_reject]

theorem still_tryJoin (s : Station) : Still s (s.tryJoin) := by
  unfold Station.tryJoin
  (repeat' split) <;> simp [Still, still_reject]

theorem still_enterJoining (s : Station) : Still s (s.enterJoining) := by
  simp [Still, Station.enterJoining, still_tryJoin]

theorem still_removeStation (x : Nat) (s : Station) : Still s (s.removeStation x) := by
  simp [Still, Station.removeStation]

theorem still_removeSuspect (x : Nat) (s : Station) : Still s (s.removeSuspect x) := by
  unfold Station.removeSuspect
  dsimp only
  (repeat' split) <;> simp [Still]

theorem still_loseStation (x : Nat) (s : Station) : Still s (s.loseStation x) := by
  unfold Station.loseStation
  (repeat' split) <;> simp [Still, still_preCheck, still_removeStation, still_removeSuspect]

theorem still_becomeMember (s : Station) : Still s (s.becomeMember) := by
  simp [Still, Station.becomeMember]

theorem still_hearJoin (x : Nat) (t : Tile) (s : Station) : Still s (s.hearJoin x t) := by
  unfold Station.hearJoin
  (repeat' split) <;> simp [Still, still_preCheck, still_removeStation]

theorem still_adoptWall (x : Nat) (t : Tile) (m : StationSet) (l : Option FrameNo) (s : Station) :
    Still s (s.adoptWall x t m l) := by
  simp [Still, Station.adoptWall]

theorem still_beaconSlot (r : Refresh) (s : Station) : Still s (s.beaconSlot r) := by
  unfold Station.beaconSlot
  (repeat' split) <;> simp [Still]

theorem still_listenPulse (s : Station) : Still s (s.listenPulse) := by
  unfold Station.listenPulse
  (repeat' split) <;> simp [Still, still_enterJoining]

theorem still_joinPulse (s : Station) : Still s (s.joinPulse) := by
  unfold Station.joinPulse
  (repeat' split) <;> simp [Still, still_tryJoin]

theorem still_tickPulse (s : Station) : Still s (s.tickPulse) := by
  unfold Station.tickPulse
  (repeat' split) <;> simp [Still]

theorem still_suspectPulse (s : Station) : Still s (s.suspectPulse) := by
  unfold Station.suspectPulse
  (repeat' split) <;> simp [Still]

theorem still_memberPulse (s : Station) : Still s (s.memberPulse) := by
  unfold Station.memberPulse
  dsimp only
  (repeat' split) <;> simp [Still, still_tickPulse, still_suspectPulse]

theorem still_mbrPulse (s : Station) : Still s (s.mbrPulse) := by
  unfold Station.mbrPulse
  (repeat' split) <;> simp [Still, still_listenPulse, still_joinPulse, still_memberPulse]

theorem still_endRead (q : Nat) (t : Byte) (s : Station) : Still s (s.endRead q t) := by
  unfold Station.endRead
  (repeat' split) <;> simp [Still]

theorem still_readDone (sp : Span) (q : Nat) (t : Byte) (d : Bool) (s : Station) :
    Still s (s.readDone sp q t d) := by
  unfold Station.readDone
  dsimp only
  (repeat' split) <;> simp [Still]

theorem still_keepWrite (k : ApplyRecord) (s : Station) : Still s (s.keepWrite k) := by
  simp [Still, Station.keepWrite]

theorem still_applyDone (n m : Nat) (d : Bool) (s : Station) : Still s (s.applyDone n m d) := by
  unfold Station.applyDone
  (repeat' split) <;> simp [Still, still_pendingDown]

theorem still_grant (r : Requester) (s : Station) : Still s (s.grant r) := by
  unfold Station.grant
  (repeat' split) <;> simp [Still]

theorem still_decideGrant (s : Station) : Still s (s.decideGrant) := by
  unfold Station.decideGrant
  (repeat' split) <;> simp [Still, still_grant]

theorem still_requestAtIdle (r : Requester) (s : Station) : Still s (s.requestAtIdle r) := by
  unfold Station.requestAtIdle
  (repeat' split) <;> simp [Still, still_grant]

theorem still_scanDone (b : Buf) (l g : Nat) (d : Bool) (s : Station) : Still s (s.scanDone b l g d) := by
  unfold Station.scanDone
  (repeat' split) <;> simp [Still]

theorem still_mrefDone (s : Station) : Still s (s.mrefDone) := by
  simp [Still, Station.mrefDone]

theorem still_initBurstDone (n : Nat) (d : Bool) (s : Station) : Still s (s.initBurstDone n d) := by
  unfold Station.initBurstDone
  (repeat' split) <;> simp [Still, still_completeJob]

theorem still_requesterDone (b : Burst) (s : Station) : Still s (s.requesterDone b) := by
  unfold Station.requesterDone
  (repeat' split) <;> simp [Still, still_readDone, still_applyDone, still_scanDone, still_mrefDone,
      still_initBurstDone]

theorem still_refreshExpiry (s : Station) : Still s (s.refreshExpiry) := by
  unfold Station.refreshExpiry
  (repeat' split) <;> simp [Still]

theorem still_endRefresh (s : Station) : Still s (s.endRefresh) := by
  simp [Still, Station.endRefresh]

theorem still_beginRefresh (s : Station) : Still s (s.beginRefresh) := by
  simp [Still, Station.beginRefresh]

theorem still_pulse (s : Station) : Still s (s.pulse) := by
  simp [Still, Station.pulse, still_ftcPulse, still_mbrPulse, still_endRefresh,
      still_beginRefresh]

theorem still_wsyncEdge (s : Station) : Still s (s.wsyncEdge) := by
  simp [Still, Station.wsyncEdge, still_pulse]

theorem still_syncLost (s : Station) : Still s (s.syncLost) := by
  unfold Station.syncLost
  (repeat' split) <;> simp [Still, still_pulse]

theorem still_freeRunExpiry (s : Station) : Still s (s.freeRunExpiry) := by
  unfold Station.freeRunExpiry
  (repeat' split) <;> simp [Still, still_pulse]

theorem still_pulseFrom (src : PulseSource) (s : Station) : Still s (s.pulseFrom src) := by
  unfold Station.pulseFrom
  (repeat' split) <;> simp [Still, still_wsyncEdge, still_syncLost, still_freeRunExpiry]

theorem still_namedPulse (due : Station → Bool) (src : PulseSource) (s : Station) :
    Still s (s.namedPulse due src) := by
  unfold Station.namedPulse
  (repeat' split) <;> simp [Still, still_pulseFrom]

theorem still_blankingEnd (s : Station) : Still s (s.blankingEnd) := by
  unfold Station.blankingEnd
  (repeat' split) <;> simp [Still]

theorem still_advanceOutput (s : Station) : Still s (s.advanceOutput) := by
  unfold Station.advanceOutput
  (repeat' split) <;> simp [Still]

theorem still_skipFetch (s : Station) : Still s (s.skipFetch) := by
  unfold Station.skipFetch
  (repeat' split) <;> simp [Still]

theorem still_showSegment (p : List Rgb) (s : Station) : Still s (s.showSegment p) := by
  simp [Still, Station.showSegment]

theorem still_segmentTaken (s : Station) : Still s (s.segmentTaken) := by
  unfold Station.segmentTaken
  (repeat' split) <;> simp [Still, still_advanceOutput, still_skipFetch, still_showSegment]

theorem still_timersRun (s : Station) : Still s (s.timersRun) := by
  simp [Still, Station.timersRun]

/-! ## Messages -/

theorem still_tickStands (r : Receiving) (s : Station) : Still s (tickStands r s) := by
  unfold tickStands
  (repeat' split) <;> simp [Still, still_acceptTick, still_beaconSlot]

theorem still_suspectStands (r : Receiving) (s : Station) : Still s (suspectStands r s) := by
  unfold suspectStands
  (repeat' split) <;> simp [Still, still_loseStation]

theorem still_joinStands (r : Receiving) (s : Station) : Still s (joinStands r s) := by
  unfold joinStands
  (repeat' split) <;> simp [Still, still_becomeMember, still_hearJoin]

theorem still_leaveStands (r : Receiving) (s : Station) : Still s (leaveStands r s) := by
  unfold leaveStands
  (repeat' split) <;> simp [Still, still_withdraw, still_loseStation]

theorem still_wallResetStands (r : Receiving) (s : Station) : Still s (wallResetStands r s) := by
  unfold wallResetStands
  (repeat' split) <;> simp [Still, still_withdraw]

theorem still_orderLeaveStands (r : Receiving) (s : Station) : Still s (orderLeaveStands r s) := by
  unfold orderLeaveStands
  (repeat' split) <;> simp [Still]

theorem still_orderRejoinStands (r : Receiving) (s : Station) : Still s (orderRejoinStands r s) := by
  unfold orderRejoinStands
  (repeat' split) <;> simp [Still]

theorem still_dropStands (r : Receiving) (s : Station) : Still s (dropStands r s) := by
  unfold dropStands
  (repeat' split) <;> simp [Still, still_dropSource]

theorem still_readyStands (r : Receiving) (s : Station) : Still s (readyStands r s) := by
  unfold readyStands
  (repeat' split) <;> simp [Still]

theorem still_beaconStands (r : Receiving) (s : Station) : Still s (beaconStands r s) := by
  unfold beaconStands
  (repeat' split) <;> simp [Still, still_preCheck, still_enterJoining, still_adoptWall]

theorem still_readReplyStands (r : Receiving) (s : Station) : Still s (readReplyStands r s) := by
  unfold readReplyStands
  dsimp only
  (repeat' split) <;> simp [Still, still_endRead]

theorem still_statusReportStands (r : Receiving) (s : Station) : Still s (statusReportStands r s) := by
  unfold statusReportStands
  (repeat' split) <;> simp [Still]

theorem still_openStands (r : Receiving) (s : Station) : Still s (openStands r s) := by
  unfold openStands
  dsimp only
  (repeat' split) <;> simp [Still, still_openRecord]

theorem still_closeStands (r : Receiving) (s : Station) : Still s (closeStands r s) := by
  unfold closeStands
  (repeat' split) <;> simp [Still, still_closeRecord]

theorem still_fillStands (r : Receiving) (s : Station) : Still s (fillStands r s) := by
  unfold fillStands
  (repeat' split) <;> simp [Still, still_keepWrite]

theorem still_runStands (r : Receiving) (s : Station) : Still s (runStands r s) := by
  unfold runStands
  (repeat' split) <;> simp [Still, still_keepWrite]

theorem still_readRequestStands (r : Receiving) (s : Station) : Still s (readRequestStands r s) := by
  unfold readRequestStands
  (repeat' split) <;> simp [Still]

theorem still_readCancelStands (r : Receiving) (s : Station) : Still s (readCancelStands r s) := by
  unfold readCancelStands
  (repeat' split) <;> simp [Still, still_endRead]

theorem still_statusQueryStands (r : Receiving) (s : Station) : Still s (statusQueryStands r s) := by
  unfold statusQueryStands
  (repeat' split) <;> simp [Still, still_takeQuery]

theorem still_standsOf (k : Kind) (r : Receiving) (s : Station) : Still s (standsOf k r s) := by
  cases k
  · exact still_tickStands r s
  · exact still_suspectStands r s
  · exact still_joinStands r s
  · exact still_leaveStands r s
  · exact still_wallResetStands r s
  · exact still_orderLeaveStands r s
  · exact still_orderRejoinStands r s
  · exact still_dropStands r s
  · exact still_readyStands r s
  · exact still_beaconStands r s
  · exact still_readReplyStands r s
  · exact still_statusReportStands r s
  · exact still_openStands r s
  · exact still_closeStands r s
  · exact still_fillStands r s
  · exact still_runStands r s
  · exact still_readRequestStands r s
  · exact still_readCancelStands r s
  · exact still_statusQueryStands r s

theorem still_verdict {st : Stands} (h : ∀ r s, Still s (st r s)) (c : Byte) (v : Slots) (s : Station) :
    Still s (s.verdict c st v) := by
  unfold Station.verdict
  dsimp only
  (repeat' split) <;> simp [Still, h, still_ownVoid, still_closeReceiving]

theorem still_message {st : Stands} (h : ∀ r s, Still s (st r s)) (k : Kind) (d : Decide)
    (e : MsgEvent) (s : Station) : Still s (s.message k d st e) := by
  have hv := still_verdict h k.code
  unfold Station.message
  split
  · exact still_hear _ _ _ _
  · exact hv _ _
  · split
    · exact ⟨rfl, rfl, rfl, rfl⟩
    · simp [Still, hv, still_hear]

theorem still_unknownMessage (c : Byte) (e : MsgEvent) (s : Station) :
    Still s (s.unknownMessage c e) := by
  have hv := still_verdict (st := fun _ s => s) (fun _ _ => ⟨rfl, rfl, rfl, rfl⟩) c
  unfold Station.unknownMessage
  split
  · exact still_hearUnknown _ _ _
  · exact hv _ _
  · split
    · exact ⟨rfl, rfl, rfl, rfl⟩
    · simp [Still, hv, still_hearUnknown]

end Sys2Proof.Machine
end

