-- ==== Sys2Proof/WellFormed.lean ====
section
/-! DEFINITION. What a command must meet to be one that can come: checks on its operands alone. -/

namespace Sys2Proof

/-- What was heard of a message: a header can state no body above 65 535 bytes, and none is longer
on the bus than the longest a header can state (11.1). -/
def Heard.wellFormed (h : Heard) : Bool := decide (h.body.length ≤ 65535)

def MsgEvent.wellFormed : MsgEvent → Bool
  | .checkCode h => h.wellFormed
  | .verdict _ => true
  | .whole h _ => h.wellFormed

/-- A message of an unknown kind has a kind code outside the table, or a class or sender that does not
fit (R4). The verdict alone carries no word to test. -/
def unknownWellFormed (code : Byte) : MsgEvent → Bool
  | .checkCode h => h.wellFormed && isUnknownKind code h.word
  | .verdict _ => true
  | .whole h _ => h.wellFormed && isUnknownKind code h.word

/-- At most one contender for each of the other parties contends at one idle bus (R2); there are 64 party numbers
(00_scope.md, Terms). -/
def contendersWellFormed (others : List Byte) : Bool := decide (others.length ≤ 64)

/-- The check on a command's operands. -/
def Instr.wellFormed : Instr → Bool
  | .tick e | .suspect e | .join e | .leave e | .wallReset e | .orderLeave e | .orderRejoin e
  | .drop e | .ready e | .beacon e | .readReply e | .statusReport e | .openFrame e
  | .closeFrame e | .fill e | .run e | .readRequest e | .readCancel e | .statusQuery e =>
    e.wellFormed
  | .unknownKind code e => unknownWellFormed code e
  | .arbitration others => contendersWellFormed others
  | .resetAssert | .resetRelease _ _ | .busIdle | .wsyncEdge | .syncLost | .freeRunExpiry
  | .beaconWatchExpiry _ _ | .tickWatchExpiry _ | .listenTimeout _ | .joinWaitEnd _ | .stall _
  | .blankingEnd | .segmentTaken | .memoryRefreshExpiry | .requestAtIdleArbiter _
  | .scanBurstComplete | .mrefBurstComplete | .applyBurstComplete | .initBurstComplete
  | .readBurstComplete => true

end Sys2Proof
end

