-- ==== Sys2Proof/Tests/Slice0.lean ====
section
/-! SUPPORT. Small tests: ill-formed commands refused, single steps on small states, and for each statement
states and operands that meet its hypotheses. -/

namespace Sys2Proof.Tests

open Sys2Proof.Machine

set_option Elab.async false

/-! ## Small states -/

/-- A change of the station of a state. -/
def on (s : State) (f : Station → Station) : State := { s with toStation := f s.toStation }

/-- Stations 0, 1 and 2 are members; the tile of 2 is not known. -/
def roster : List RosterEntry :=
  [RosterEntry.listed (some ⟨0, 0⟩), RosterEntry.listed (some ⟨1, 0⟩), RosterEntry.listed none] ++
    List.replicate 29 RosterEntry.absent

/-- Station 0 as a MEMBER and the duty holder. -/
def member : State :=
  on State.reset (Station.onMbr fun m => { m with state := .member, roster, dutyHolder := some 0 })

/-- Station 0 as a MEMBER under duty holder 1. -/
def ruled : State := on member (Station.onMbr fun m => { m with dutyHolder := some 1 })

def joiner : State := on State.reset (Station.onMbr fun m => { m with state := .joining })

/-- A frame record that requires source 40 and stations 0 and 1. -/
def frameIn (n : FrameNo) (b : Buf) (st : FrameState) : FrameRecord :=
  { frame := n, buffer := b, state := st, mode := .clear, colour := some ⟨1, 2, 3, 4⟩
    requiredSources := partyBit 40, closedSources := 0, requiredStations := 3, readyStations := 0
    pending := 0, pins := 0, showRefresh := none, stallCount := 0, stalled := false }

/-- A MEMBER that holds frames 5 in B0 and 6 in B1, in given states. -/
def holding (a b : FrameState) : State :=
  on member (Station.onFtc fun t => { t with
    buffers := { t.buffers with b0 := ⟨.bound, some 5, false⟩, b1 := ⟨.bound, some 6, false⟩ }
    records := [frameIn 5 .b0 a, frameIn 6 .b1 b], lastOpened := some 6, f0 := some 5 })

/-- An entry in transmission as the only one of the queue. -/
def sending (s : State) (m : TxMsg) : State :=
  on s (Station.onTbi fun t => { t with queue := [⟨m, .sending⟩], sending := some (s.assemble m) })

/-- A burst in flight, its targets marked. -/
def inFlight (s : State) (w : BurstWork) : State :=
  on s fun t => { t with mar := { t.mar with burst := some ⟨w, false⟩ }
                         ftc := t.ftc.markAll w.targets }

/-- The station a meaning leaves. -/
def after (o : Host.Outcome State Fault Refusal) : State :=
  match o with
  | .next t => t
  | _ => State.reset

/-- Every slot clear but station 1's refusal. -/
def refused : Slots := { refusals := 2, damage := false }

def damaged : Slots := { refusals := 0, damage := true }

/-- A write of 2 × 1 pixels at the tile's corner. -/
def corner : WriteHead := { frame := 5, x := 0, y := 0, width := 2, height := 1, op := 0, mask := 15 }

def grey : Pixel := ⟨7, 7, 7, 7⟩

/-! ## Ill-formed commands -/

theorem test_wellFormed_body : (Instr.tick (.checkCode
    { word := 0, len := 0, body := List.replicate 65536 0, check := 0 })).wellFormed = false := by
  show decide ((List.replicate 65536 (0 : Byte)).length ≤ 65535) = false
  rw [List.length_replicate]
  decide

theorem test_wellFormed_unknown :
    (Instr.unknownKind 0x00 (.checkCode ((Message.tick 0).sentBy 0))).wellFormed = false := by decide

theorem test_wellFormed_contenders :
    (Instr.arbitration (List.replicate 65 0)).wellFormed = false := by decide

/-! ## Words of the spec -/

/-- The check code and the arbitration word of READY(7) of station 3, with the kinds' classes. -/
theorem test_message_words :
    arbWord 1 3 = 0x43 ∧ ((Message.ready 7).sentBy 3).body = [0, 7] ∧
      readMessage .ready ((Message.ready 7).sentBy 3) = some (.ready 7) ∧
      crc [0x31, 0x32, 0x33, 0x34, 0x35, 0x36, 0x37, 0x38, 0x39] = 0x29B1 := by
  decide +kernel

/-- Pins SN4 to STALL0: station 17, column 5, row 2, format 1, profile 2, stall 3. -/
theorem test_straps : Straps.ofPins 0b10001101010011011#17 =
    { station := 17, column := 5, row := 2, format := 1, profile := 2, stall := 3 } := by decide

/-! ## One step of each command -/

/-- The station after a command runs on a state. -/
def ran (c : Instr) (s : State) : State := after (exec c s)

/-- A message of another party that stands. -/
def stands (m : Message) (p : Nat) : MsgEvent := .whole (m.sentBy p) .clear

theorem test_step_front :
    step { State.reset with pending := [.busIdle] } = .next (ran .busIdle State.reset) := rfl

theorem test_resetAssert : (ran .resetAssert member).resetAsserted = true := by decide +kernel

theorem test_resetRelease :
    (ran (.resetRelease 0x1234 false) (ran .resetAssert member)).straps.station = 1 ∧
      (ran (.resetRelease 0 true) member).tbi.inStep = false := by decide +kernel

theorem test_busIdle :
    (ran .busIdle (on member (Station.onTbi (Tbi.push (.ready 5))))).tbi.queue =
      [⟨.ready 5, .offer⟩] := by decide +kernel

theorem test_arbitration :
    (ran (.arbitration [0x41]) (ran .busIdle (on member (Station.onTbi (Tbi.push (.ready 5)))))).tbi.sending =
      some (.ready 5) ∧
    (ran (.arbitration [0x3F]) (ran .busIdle (on member (Station.onTbi (Tbi.push (.ready 5)))))).tbi.sending =
      none := by decide +kernel

theorem test_tick :
    (ran (.tick (stands (.tick 9) 1)) ruled).ftc.refresh = 9 ∧
      (ran (.tick (stands (.tick 9) 1)) member).ftc.refresh = 0 := by decide +kernel

/-- Station 0 after the removal of its duty holder 1, before the next pulse. -/
def widowed : State := on ruled (Station.onMbr (Mbr.lose 1))

/-- No TICK of the removed holder is accepted, nor of the holder listed again. -/
theorem test_tick_removedHolder :
    (ran (.leave (stands .leave 1)) ruled).mbr = widowed.mbr ∧
      (ran (.tick (stands (.tick 9) 1)) widowed).ftc.refresh = 0 ∧
      (ran (.tick (stands (.tick 9) 1)) (on widowed (Station.onMbr fun m =>
        m.setEntry 1 (RosterEntry.listed none)))).ftc.refresh = 0 ∧
      (ran .wsyncEdge widowed).mbr.holderRemoved = false := by decide +kernel

theorem test_suspect :
    (ran (.suspect (stands (.suspect 1) 2)) member).mbr.memberSet = 5 ∧
      (ran (.suspect (stands (.suspect 0) 2)) member).stu.counters.suspectDenied = 1 := by
  decide +kernel

theorem test_join :
    (ran (.join (stands (.join 0x40) 9)) member).mbr.memberSet = 0x207 ∧
      (ran (.join (stands (.join 0x20) 9)) member).stu.counters.joinConflict = 1 := by decide +kernel

theorem test_leave :
    (ran (.leave (stands .leave 1)) member).mbr.memberSet = 5 ∧
      (ran (.leave (stands .leave 0)) (sending member .leave)).mbr.state = .idleOut := by
  decide +kernel

theorem test_wallReset : (ran (.wallReset (stands .wallReset 50)) member).mbr.state = .listening := by
  decide +kernel

theorem test_orderLeave :
    (ran (.orderLeave (stands (.orderLeave 0) 50)) member).tbi.queue = [⟨.leave, .waiting⟩] := by
  decide +kernel

theorem test_orderRejoin :
    (ran (.orderRejoin (stands (.orderRejoin 0) 50))
      (on member (Station.onMbr fun m => { m with state := .idleOut }))).mbr.state = .listening := by
  decide +kernel

theorem test_drop :
    (ran (.drop (stands (.drop 40) 50)) (holding .filling .filling)).ftc.records.map (·.state) =
      [.drained, .drained] := by decide +kernel

theorem test_ready :
    (ran (.ready (stands (.ready 5) 1)) (holding .drained .filling)).ftc.records.map
      (·.readyStations) = [2, 0] := by decide +kernel

theorem test_beacon :
    (ran (.beacon (stands (.beacon 0x44 3 6 (some 4)) 1)) State.reset).tbi.queue =
        [⟨.join 0, .waiting⟩] ∧
      (ran (.beacon (stands (.beacon 0x44 3 6 (some 4)) 1)) State.reset).mbr.memberSet = 6 := by
  decide +kernel

theorem test_readReply :
    (ran (.readReply (stands (.readReply ⟨40, 1, 5, 0, 0, 0, 1, true, [grey]⟩) 1)) member).rbe = [] := by
  decide +kernel

/-- The own report in hand, its check code heard. -/
def ownReport : Receiving :=
  { code := 0x81, sender := 0, message := some (.statusReport 50 []), own := true, refused := false
    aside := .nothing }

theorem test_statusReport :
    (ran (.statusReport (.verdict .clear)) (on (sending (on member (Station.setPendingReport true))
      (.statusReport 50 false)) (Station.onTbi (Tbi.receive ownReport)))).stu.pendingReport = false := by
  decide +kernel

theorem test_openFrame :
    (ran (.openFrame (stands (.openFrame 7 2 none (partyBit 40)) 50))
      (holding .shown .shown)).ftc.records.map (·.state) = [.shown, .shown, .filling] := by
  decide +kernel

theorem test_closeFrame :
    (ran (.closeFrame (stands (.closeFrame 5) 40)) (holding .filling .filling)).tbi.queue =
      [⟨.ready 5, .waiting⟩] := by decide +kernel

theorem test_fill :
    (ran (.fill (stands (.fill corner grey) 40)) (holding .filling .filling)).inq.length = 1 ∧
      (ran (.fill (stands (.fill corner grey) 41)) (holding .filling .filling)).stu.counters.sourceState =
        1 := by decide +kernel

/-- A FILL of 200 × 50 pixels is kept and takes no pixels of the store, as in chapter 12. -/
theorem test_fill_large :
    (ran (.fill (stands (.fill { corner with width := 200, height := 50 } grey) 40))
        (holding .filling .filling)).inq.map (fun k => (k.rect, k.paint.stored)) =
      [(⟨0, 0, 200, 50⟩, 0)] := by decide +kernel

theorem test_run :
    storedPixels (ran (.run (stands (.run corner 2 [grey, grey]) 40)) (holding .filling .filling)).inq =
      2 := by decide +kernel

theorem test_readRequest :
    (ran (.readRequest (stands (.readRequest 1 none 0 0 2 1) 40))
      (holding .shown .filling)).ftc.records.map (·.pins) = [1, 0] := by decide +kernel

theorem test_readCancel :
    (ran (.readCancel (stands (.readCancel 1) 40))
      (ran (.readRequest (stands (.readRequest 1 none 0 0 2 1) 40))
        (holding .shown .filling))).rbe = [] := by decide +kernel

theorem test_statusQuery :
    (ran (.statusQuery (stands (.statusQuery 0 true) 50)) State.reset).tbi.queue =
      [⟨.statusReport 50 true, .waiting⟩] := by decide +kernel

theorem test_wsyncEdge :
    (ran .wsyncEdge member).ftc.refresh = 1 ∧
      (ran .wsyncEdge member).tbi.queue = [⟨.tick 1, .waiting⟩] := by decide +kernel

theorem test_syncLost : (ran .syncLost member).scn.freeRunTimer = some 166670 := by decide +kernel

theorem test_freeRunExpiry :
    (ran .freeRunExpiry (ran .syncLost member)).ftc.refresh = 2 ∧
      (ran .freeRunExpiry member).ftc.refresh = 0 := by decide +kernel

theorem test_beaconWatchExpiry :
    (ran (.beaconWatchExpiry .wsyncEdge 1)
      (on member (Station.onMbr fun m => m.setEntry 1 ⟨true, none, 23⟩))).tbi.queue =
      [⟨.tick 1, .waiting⟩, ⟨.suspect 1, .waiting⟩] := by decide +kernel

theorem test_tickWatchExpiry :
    (ran (.tickWatchExpiry .wsyncEdge)
      (on member (Station.onMbr fun m => { m with tickWatch := 2 }))).stu.counters.tickStarved = 1 := by
  decide +kernel

theorem test_listenTimeout :
    (ran (.listenTimeout .wsyncEdge)
      (on State.reset (Station.onMbr fun m => { m with tickWatch := 5 }))).mbr.state = .joining := by
  decide +kernel

theorem test_joinWaitEnd :
    (ran (.joinWaitEnd .wsyncEdge)
      (on joiner (Station.onMbr fun m => { m with joinWait := 1 }))).tbi.queue =
      [⟨.join 0, .waiting⟩] := by decide +kernel

theorem test_stall :
    (ran (.stall .wsyncEdge) (on (holding .filling .filling) (Station.onFtc fun t =>
      { t with records := t.records.map fun r => { r with stallCount := 59 } }))).ftc.records.map
      (·.stalled) = [true, false] := by decide +kernel

theorem test_blankingEnd : (ran .blankingEnd (ran .wsyncEdge member)).scn.phase = .active := by
  decide +kernel

theorem test_segmentTaken :
    (ran .segmentTaken (ran .blankingEnd (ran .wsyncEdge (holding .shown .filling)))).stu.counters.underflow =
      1 := by decide +kernel

theorem test_memoryRefreshExpiry : (ran .memoryRefreshExpiry member).mar.debt = 1 := by decide +kernel

theorem test_requestAtIdleArbiter :
    (ran (.requestAtIdleArbiter .mref) (ran .memoryRefreshExpiry member)).mar.inFlight = some .mref := by
  decide +kernel

theorem test_scanBurstComplete :
    (ran .scanBurstComplete (inFlight (ran .wsyncEdge (holding .shown .filling))
      (.scan .b0 0 0))).scn.fetch = some ⟨0, 1⟩ := by decide +kernel

theorem test_mrefBurstComplete :
    (ran .mrefBurstComplete (inFlight (ran .memoryRefreshExpiry member) .mref)).mar.debt = 0 := by
  decide +kernel

/-- A FILL of two pixels as the one apply record of frame 5, pending. -/
def writing : State :=
  ran (.fill (stands (.fill corner grey) 40)) (holding .filling .filling)

theorem test_applyBurstComplete :
    Memory.readPixel (ran .applyBurstComplete (inFlight writing
      (.apply ⟨.b0, 0, 0, 2⟩ .xor 12 [grey, grey] 0))).mem .b0 0 1 = ⟨7, 7, 0, 0⟩ ∧
    (ran .applyBurstComplete (inFlight writing
      (.apply ⟨.b0, 0, 0, 2⟩ .xor 12 [grey, grey] 0))).inq = [] := by decide +kernel

/-- Frame 5 in INIT with its job in the last burst of the last line. -/
def lastInit : State :=
  on (holding .init .filling) fun t => { t with
    fie := [{ InitJob.made 5 (.fill grey) .b0 none .running with row := 719, col := 1278 }] }

theorem test_initBurstComplete :
    (ran .initBurstComplete (inFlight lastInit (.initFill ⟨.b0, 719, 1278, 2⟩ grey))).ftc.records.map
      (·.state) = [.filling, .filling] := by decide +kernel

theorem test_readBurstComplete :
    (ran .readBurstComplete (inFlight
      (ran (.readRequest (stands (.readRequest 1 none 0 0 2 1) 40)) (holding .shown .filling))
      (.read ⟨.b0, 0, 0, 2⟩ 40 1))).tbi.queue =
      [⟨.readReply ⟨40, 1, 5, 0, 0, 0, 2, true, [Pixel.zero, Pixel.zero]⟩, .waiting⟩] := by
  decide +kernel

theorem test_unknownKind :
    (ran (.unknownKind 0x99 (stands .leave 1)) member).stu.counters.damageMarked = 1 := by
  decide +kernel

/-! ## Hypotheses met -/

/-- A message of another party as it is heard by a station that takes it. -/
theorem hearsOther_sent {s : Station} {m : Message} {p : Nat}
    (hs : s.resetAsserted = false ∧ s.tbi.inStep = true ∧ s.tbi.receiving = none ∧ s.tbi.sending = none)
    (hm : m.body.length = (BitVec.ofNat 16 m.body.length).toNat ∧
      m.kind.fits (arbWord m.kind.cls p) = true) (hb : readBody m.kind m.body = some m) :
    s.hearsOther m.kind (m.sentBy p) m := by
  refine ⟨⟨hs.1, hs.2.1, hs.2.2.1⟩, hs.2.2.2, ?_⟩
  unfold readMessage
  rw [if_pos ⟨rfl, hm.1, hm.2⟩]
  exact hb

/-- The own message as it is heard while its entry is in transmission. -/
theorem hearsOwn_sent {s : Station} {m : Message} {p : Nat} {e : TxEntry}
    (hs : s.resetAsserted = false ∧ s.tbi.inStep = true ∧ s.tbi.receiving = none ∧
      s.tbi.sending.isSome = true ∧ s.tbi.inTransmission = some e ∧ e.msg.kind = m.kind)
    (hm : m.body.length = (BitVec.ofNat 16 m.body.length).toNat ∧
      m.kind.fits (arbWord m.kind.cls p) = true) (hb : readBody m.kind m.body = some m) :
    s.hearsOwn m.kind (m.sentBy p) m e := by
  refine ⟨⟨hs.1, hs.2.1, hs.2.2.1⟩, hs.2.2.2.1, hs.2.2.2.2.1, hs.2.2.2.2.2, ?_⟩
  unfold readMessage
  rw [if_pos ⟨rfl, hm.1, hm.2⟩]
  exact hb

theorem test_hyp_StepRunsTheFrontCommand :
    ({ State.reset with pending := [.busIdle, .syncLost] } : State).pending = .busIdle :: [.syncLost] :=
  rfl

theorem test_hyp_IdleStepMovesOnlyTheTimers :
    ((ran .resetAssert member).pending = [] ∧ (ran .resetAssert member).resetAsserted = true) ∧
    (member.pending = [] ∧ member.resetAsserted = false ∧ member.mar.timer = 78) ∧
    (on member (Station.onScn fun c => { c with syncWatch := 250004 })).pending = [] ∧
    ∃ n, (ran .syncLost member).scn.freeRunTimer = some n := by
  refine ⟨by decide +kernel, by decide +kernel, rfl, 166670, by decide +kernel⟩

theorem test_hyp_ResetAssertStopsTheStation :
    ((ran .resetAssert member).resetAsserted = true ∧
      ∀ pins busy, Instr.busIdle ≠ .resetRelease pins busy) ∧
    (inFlight writing (.initFill ⟨.b0, 0, 0, 2⟩ grey)).resetAsserted = false ∧
    Memory.wf (inFlight writing (.initFill ⟨.b0, 0, 0, 2⟩ grey)).mem = true := by
  refine ⟨⟨by decide +kernel, fun _ _ h => ?_⟩, by decide +kernel, by decide +kernel⟩
  cases h

theorem test_hyp_ResetReleaseLatchesAndStartsEveryBlock :
    (ran .resetAssert member).resetAsserted = true ∧ member.resetAsserted = false ∧
      exec .resetAssert member = .next (ran .resetAssert member) := ⟨by decide +kernel, rfl, rfl⟩

theorem test_hyp_StateResetIsTheStateAfterRelease :
    ({ State.reset with resetAsserted := true } : State).resetAsserted = true ∧
      ({ State.reset with resetAsserted := true } : State).mem = [] ∧
      ({ State.reset with resetAsserted := true } : State).free = 0 ∧
      ({ State.reset with resetAsserted := true } : State).pending = [] := ⟨rfl, rfl, rfl, rfl⟩

theorem test_hyp_CommandsKeepTheQueueAndTheStraps :
    ∀ pins busy, Instr.segmentTaken ≠ .resetRelease pins busy := fun _ _ h => by cases h

/-- Station 0 with two READYs queued, none of them offered. -/
def queued : State := on member (Station.onTbi fun t => (t.push (.ready 5)).push .leave)

theorem test_hyp_BusIdleChoosesTheOffer :
    (queued.resetAsserted = false ∧ queued.tbi.receiving = none ∧ queued.tbi.sending = none ∧
      (∀ e ∈ queued.tbi.queue, e.status ≠ .offer) ∧ queued.tbi.queue ≠ []) ∧
    (ran .busIdle queued).resetAsserted = false ∧ (ran .busIdle queued).tbi.receiving = none ∧
      (ran .busIdle queued).tbi.sending = none ∧
      ∃ e ∈ (ran .busIdle queued).tbi.queue, e.status = .offer := by decide +kernel

theorem test_hyp_ArbitrationLosesOrSendsTheOffer :
    (ran .busIdle queued).resetAsserted = false ∧ (ran .busIdle queued).tbi.contending = true ∧
      (ran .busIdle queued).tbi.queue.find? (fun d => d.status == .offer) = some ⟨.leave, .offer⟩ ∧
      (∀ o ∈ [(0 : Byte)], 64 * TxMsg.leave.kind.cls + queued.number ≤ o.toNat) ∧
    (ran .busIdle (on queued fun s => { s with straps := { s.straps with station := 1 } })).tbi.queue.find?
      (fun d => d.status == .offer) = some ⟨.leave, .offer⟩ ∧
      (∃ o ∈ [(0 : Byte)], o.toNat < 64 * TxMsg.leave.kind.cls + 1) := by decide +kernel

theorem test_hyp_UnknownKindIsDamaged :
    member.takes ∧ member.tbi.sending = none ∧
      isUnknownKind 0x08 ((Message.leave).sentBy 1).word = true ∧
      isUnknownKind 0x03 (arbWord 0 32) = true ∧ isUnknownKind 0x03 (arbWord 0 31) = false := by
  simp only [Station.takes]; decide +kernel

/-- READY(7) of station 3. -/
def seven : Heard := (Message.ready 7).sentBy 3

theorem test_hyp_DamagedMessageIsOnlyCounted :
    member.takes ∧ member.tbi.sending = none ∧ ({ seven with check := 0 } : Heard).check ≠
        crc ([seven.word, Kind.code .ready, hi8 seven.len, lo8 seven.len] ++ seven.body) ∧
      ({ seven with len := 3 } : Heard).body.length ≠ ({ seven with len := 3 } : Heard).len.toNat ∧
      isUnknownKind (Kind.code .ready) (arbWord 1 32) = true ∧ readBody .ready [0] = none := by
  simp only [Station.takes]; decide +kernel

/-- A message in hand of another party, passed. -/
def inHand (code : Byte) (m : Option Message) (refused : Bool) : State :=
  on member (Station.onTbi (Tbi.receive
    { code, sender := 40, message := m, own := false, refused, aside := .nothing }))

/-- A damaged message is counted at its verdict. -/
theorem test_ready_damaged :
    (ran (.ready (.checkCode { seven with check := 0 })) member).stu = member.stu ∧
      (ran (.ready (.verdict .clear)) (inHand 0x40 none false)).stu.counters.damageMarked = 1 := by
  decide +kernel

theorem test_hyp_VoidMessageReachesNoBlock :
    (inHand 0x40 (some (.ready 7)) false).resetAsserted = false ∧
      (inHand 0x40 (some (.ready 7)) false).tbi.receiving = some ⟨0x40, 40, some (.ready 7), false,
        false, .nothing⟩ ∧ (0x40 : Byte) = Kind.code .ready ∧ refused.refusals ≠ 0 ∧
      damaged.damage = true ∧
      ((inHand 0x40 (some (.ready 7)) true).tbi.receiving.map fun r => r.refused) = some true ∧
      ((inHand 0x40 none false).tbi.receiving.map fun r => r.message) = some none := by decide +kernel

theorem test_hyp_WholeMessageIsCheckCodeThenVerdict :
    member.tbi.receiving = none ∧
      exec (commandOf .ready (.checkCode seven)) member =
        .next (ran (commandOf .ready (.checkCode seven)) member) := ⟨rfl, rfl⟩

theorem test_hyp_WhatNoStationRefuses :
    (State.reset.takes ∧ readMessage .ready seven = some (.ready 7) ∧
      State.reset.mbr.state ≠ .member) ∧
    ((sending member (.ready 7)).takes ∧ (sending member (.ready 7)).tbi.sending.isSome = true) ∧
    Kind.ready ∉ [Kind.join, .suspect, .openFrame, .closeFrame, .fill, .run, .readRequest] := by
  simp only [Station.takes]; decide +kernel

/-- A station that sends a message after n void ones. -/
def sendingAfter (n : Nat) (s : State) (m : TxMsg) : State :=
  on (sending s m) (Station.onTbi fun t => { t with voidStreak := n })

/-- The own message heard undamaged, and void by a slot that another party asserts. -/
theorem ownVoids_heard {s : Station} {m : Message} {p : Nat} {e : TxEntry} {v : Slots}
    (ho : s.hearsOwn m.kind (m.sentBy p) m e) (hv : v.refusals ≠ 0 ∨ v.damage = true) :
    s.ownVoids (commandOf e.msg.kind (.whole (m.sentBy p) v)) e false v.damage := by
  obtain ⟨ht, hs, hi, hk, hr⟩ := ho
  rw [← hk] at hr
  exact ⟨ht, hs, hi, m.sentBy p, v, (Bool.or_false _).symm, hv, Or.inl ⟨rfl, rfl, m, hr⟩⟩

/-- A message in which a station that sends finds its own damaged, with every other slot clear. -/
theorem ownVoids_marked {s : Station} {k : Kind} {h : Heard} {e : TxEntry}
    (ht : s.takes ∧ s.tbi.sending.isSome = true ∧ s.tbi.inTransmission = some e)
    (hr : readMessage k h = none) :
    s.ownVoids (commandOf k (.whole h .clear)) e true true :=
  ⟨ht.1, ht.2.1, ht.2.2, h, .clear, rfl, Or.inr rfl, Or.inr (Or.inl ⟨rfl, k, rfl, hr⟩)⟩

theorem ownVoids_unknown {s : Station} {code : Byte} {h : Heard} {e : TxEntry}
    (ht : s.takes ∧ s.tbi.sending.isSome = true ∧ s.tbi.inTransmission = some e)
    (hr : isUnknownKind code h.word = true) :
    s.ownVoids (.unknownKind code (.whole h .clear)) e true true :=
  ⟨ht.1, ht.2.1, ht.2.2, h, .clear, rfl, Or.inr rfl, Or.inr (Or.inr ⟨rfl, code, rfl, hr⟩)⟩

/-- READY(7) of station 3 with a failed check code. -/
def broken : Heard := { seven with check := 0 }

theorem test_hyp_OwnVoidIsHandledByKind :
    ((sendingAfter 30 member (.ready 7)).ownVoids
        (.ready (.whole ((Message.ready 7).sentBy 0) damaged)) ⟨.ready 7, .sending⟩ false true ∧
      (sendingAfter 30 member (.ready 7)).tbi.voidStreak < 31) ∧
    (sendingAfter 31 member (.suspect 1)).ownVoids
      (.suspect (.whole ((Message.suspect 1).sentBy 0) refused)) ⟨.suspect 1, .sending⟩ false false ∧
    (sendingAfter 30 member (.suspect 1)).ownVoids (.ready (.whole broken .clear))
      ⟨.suspect 1, .sending⟩ true true ∧
    (sendingAfter 30 member (.suspect 1)).ownVoids (.unknownKind 0x08 (.whole broken .clear))
      ⟨.suspect 1, .sending⟩ true true := by
  refine ⟨⟨ownVoids_heard (m := .ready 7) (v := damaged) ?_ (Or.inr rfl), by decide⟩,
    ownVoids_heard (m := .suspect 1) (v := refused) ?_ (Or.inl (by decide)),
    ownVoids_marked (k := .ready) ?_ ?_, ownVoids_unknown ?_ ?_⟩ <;>
  · try simp only [Station.hearsOwn, Station.takes]
    decide +kernel

theorem test_hyp_BusFaultWithdrawsTheStation :
    (sendingAfter 31 member (.ready 7)).tbi.voidStreak = 31 ∧
    (sendingAfter 31 member (.ready 7)).ownVoids
      (.ready (.whole ((Message.ready 7).sentBy 0) damaged)) ⟨.ready 7, .sending⟩ false true ∧
    (sendingAfter 31 member (.ready 7)).ownVoids (.ready (.whole broken .clear))
      ⟨.ready 7, .sending⟩ true true := by
  refine ⟨rfl, ownVoids_heard (m := .ready 7) (v := damaged) ?_ (Or.inr rfl),
    ownVoids_marked (k := .ready) ?_ ?_⟩ <;>
  · try simp only [Station.hearsOwn, Station.takes]
    decide +kernel

/-- A tile at column 5, row 1, format 0, free at the wall. -/
def freeTile : Byte := 0xA4

theorem not_refused (x : Nat) (hx : x ≠ 0) : ¬member.refusesJoin x freeTile := by
  rintro (h | ⟨i, e, he, hm, -, ht⟩ | h)
  · exact hx h
  · have free : ∀ e ∈ roster, e.member = true → e.tile ≠ some (tileBits freeTile) := by decide +kernel
    exact free e (List.mem_of_getElem? he) hm ht
  · exact absurd h (by decide +kernel)

/-- Station 0 with its SUSPECT of station 1 in transmission, raised by a watch. -/
def suspecting (o : SuspectOrigin) : State :=
  on (sendingAfter 31 member (.suspect 1)) (Station.onMbr fun m => { m with suspectOrigin := some o })

theorem suspecting_voids (o : SuspectOrigin) :
    (suspecting o).ownVoids (.suspect (.whole ((Message.suspect 1).sentBy 0) refused))
      ⟨.suspect 1, .sending⟩ false false :=
  test_hyp_OwnVoidIsHandledByKind.2.1

theorem test_hyp_JoinAndSuspectAreRefusedOnTheirGrounds :
    ((suspecting .tickWatch).ownVoids (.suspect (.whole ((Message.suspect 1).sentBy 0) refused))
        ⟨.suspect 1, .sending⟩ false false ∧ (suspecting .tickWatch).mbr.state = .member ∧
      (suspecting (.beaconWatch 1)).mbr.suspectOrigin = some (.beaconWatch 1)) ∧
    member.mbr.state = .member ∧
    (member.hearsOther .join ((Message.join freeTile).sentBy 3) (.join freeTile) ∧
      ¬member.refusesJoin 3 freeTile) ∧
    member.refusesJoin 0 freeTile ∧ member.refusesJoin 3 0x20 ∧ member.refusesJoin 3 0xA5 ∧
    (member.hearsOther .suspect ((Message.suspect 0).sentBy 3) (.suspect 0) ∧
      (0 : Byte).toNat = member.number) ∧
    member.hearsOther .suspect ((Message.suspect 1).sentBy 3) (.suspect 1) := by
  refine ⟨⟨suspecting_voids _, rfl, rfl⟩, rfl, ⟨?_, not_refused 3 (by decide)⟩, Or.inl rfl,
    Or.inr (Or.inl ⟨1, RosterEntry.listed (some ⟨1, 0⟩), rfl, rfl, by decide, by decide⟩),
    Or.inr (Or.inr (by decide +kernel)), ⟨?_, rfl⟩, ?_⟩ <;>
  · simp only [Station.hearsOther, Station.takes]; decide +kernel

theorem test_hyp_OwnJoinAdmitsTheStation :
    (sending joiner (.join 0)).hearsOwn .join ((Message.join 0).sentBy 0) (.join 0)
      ⟨.join 0, .sending⟩ := by
  simp only [Station.hearsOwn, Station.takes]; decide +kernel

/-- A joiner whose JOIN was void n times. -/
def retried (n : Nat) : State := on joiner (Station.onMbr fun m => { m with retryCount := n })

theorem test_hyp_VoidJoinWaitsOrRejects :
    ((sending (retried 14) (.join 0)).ownVoids (.join (.whole ((Message.join 0).sentBy 0) refused))
        ⟨.join 0, .sending⟩ false false ∧
      (retried 14).mbr.state = .joining ∧ (retried 14).mbr.retryCount < 15) ∧
    (sendingAfter 30 (retried 15) (.join 0)).ownVoids (.ready (.whole broken .clear))
        ⟨.join 0, .sending⟩ true true ∧
      (retried 15).mbr.state = .joining ∧ 15 ≤ (retried 15).mbr.retryCount := by
  refine ⟨⟨ownVoids_heard (m := .join 0) (v := refused) ?_ (Or.inl (by decide)), rfl, by decide⟩,
    ownVoids_marked (k := .ready) ?_ ?_, rfl, by decide⟩ <;>
  · try simp only [Station.hearsOwn, Station.takes]
    decide +kernel

theorem test_hyp_JoinIsAddedOrReadmittedAtMember :
    (member.hearsOther .join ((Message.join freeTile).sentBy 3) (.join freeTile) ∧
      member.mbr.state = .member ∧ ¬member.refusesJoin 3 freeTile ∧ member.mbr.isMember 3 = false) ∧
    member.hearsOther .join ((Message.join freeTile).sentBy 1) (.join freeTile) ∧
      ¬member.refusesJoin 1 freeTile ∧ member.mbr.isMember 1 = true ∧ ruled.mbr.dutyHolder = some 1 := by
  refine ⟨⟨?_, rfl, not_refused 3 (by decide), rfl⟩, ?_, not_refused 1 (by decide), rfl, rfl⟩ <;>
  · simp only [Station.hearsOther, Station.takes]; decide +kernel

theorem test_hyp_MemberRemovesALostStation :
    member.mbr.state = .member ∧
    (member.hearsOther .suspect ((Message.suspect 1).sentBy 2) (.suspect 1) ∧ 1 ≠ member.number ∧
      member.mbr.isMember 1 = true) ∧
    (ruled.hearsOther .suspect ((Message.suspect 1).sentBy 2) (.suspect 1) ∧
      ruled.mbr.isMember 1 = true ∧ ruled.mbr.dutyHolder = some 1) ∧
    (sending member (.suspect 2)).hearsOwn .suspect ((Message.suspect 2).sentBy 0) (.suspect 2)
      ⟨.suspect 2, .sending⟩ ∧
    member.hearsOther .leave (Message.leave.sentBy 3) .leave ∧ wordParty (Message.leave.sentBy 3).word = 3 ∧
      member.mbr.isMember 3 = false := by
  simp only [Station.hearsOther, Station.hearsOwn, Station.takes]; decide +kernel

/-- Station 0 outside the wall, in a state. -/
def outside (st : StationState) : State := on State.reset (Station.onMbr fun m => { m with state := st })

theorem test_hyp_TentativeRosterFollowsTheBus :
    (((outside .idleOut).hearsOther .suspect ((Message.suspect 1).sentBy 2) (.suspect 1) ∧
        (outside .idleOut).mbr.state = .idleOut) ∧
      ((outside .rejected).hearsOther .leave (Message.leave.sentBy 1) .leave ∧
        (outside .rejected).mbr.state = .rejected) ∧
      (joiner.hearsOther .leave (Message.leave.sentBy 31) .leave ∧ joiner.mbr.isMember 31 = false)) ∧
    (State.reset.hearsOther .join ((Message.join 0).sentBy 3) (.join 0) ∧
      State.reset.mbr.state = .listening) ∧
    (joiner.hearsOther .join ((Message.join 0).sentBy 3) (.join 0) ∧ joiner.mbr.state = .joining ∧
      joiner.clashes (joiner.mbr.roster.set 3 (RosterEntry.listed (some (tileBits 0))))) ∧
    (joiner.hearsOther .join ((Message.join freeTile).sentBy 3) (.join freeTile) ∧
      ¬joiner.clashes (joiner.mbr.roster.set 3 (RosterEntry.listed (some (tileBits freeTile))))) ∧
    (on member (Station.onMbr fun m => { m with state := .idleOut })).hearsOther .suspect
      ((Message.suspect 1).sentBy 2) (.suspect 1) ∧ member.mbr.isMember 1 = true := by
  refine ⟨⟨⟨?_, rfl⟩, ⟨?_, rfl⟩, ?_, rfl⟩, ⟨?_, rfl⟩, ⟨?_, rfl, 3, _, rfl, rfl, Or.inr rfl⟩, ⟨?_, ?_⟩, ?_,
    rfl⟩
  rotate_left 6
  · rintro ⟨i, e, he, hm, hc⟩
    by_cases h3 : i = 3
    · subst h3
      cases Option.some.inj he
      exact absurd hc (by decide +kernel)
    · rw [List.getElem?_set_ne (Ne.symm h3)] at he
      have : e = RosterEntry.absent := List.eq_of_mem_replicate (List.mem_of_getElem? he)
      subst this
      exact absurd hm (by decide)
  all_goals simp only [Station.hearsOther, Station.takes]; decide +kernel

theorem test_hyp_WallResetAndOwnLeaveWithdraw :
    (holding .shown .filling).hearsOther .wallReset (Message.wallReset.sentBy 63) .wallReset ∧
      (sending member .leave).hearsOwn .leave (Message.leave.sentBy 0) .leave ⟨.leave, .sending⟩ := by
  simp only [Station.hearsOther, Station.hearsOwn, Station.takes]; decide +kernel

theorem test_hyp_OrderLeaveQueuesALeave :
    member.hearsOther .orderLeave ((Message.orderLeave 0).sentBy 63) (.orderLeave 0) ∧
      (0 : Byte).toNat = member.number ∧
      queued.hearsOther .orderLeave ((Message.orderLeave 0).sentBy 0) (.orderLeave 0) := by
  simp only [Station.hearsOther, Station.takes]; decide +kernel

theorem test_hyp_OrderRejoinReturnsTheStationToListening :
    (outside .idleOut).hearsOther .orderRejoin ((Message.orderRejoin 0).sentBy 63) (.orderRejoin 0) ∧
      (0 : Byte).toNat = (outside .idleOut).number ∧
    (outside .rejected).hearsOther .orderRejoin ((Message.orderRejoin 0).sentBy 0) (.orderRejoin 0) ∧
    member.hearsOther .orderRejoin ((Message.orderRejoin 1).sentBy 63) (.orderRejoin 1) ∧
      (1 : Byte).toNat ≠ member.number := by
  simp only [Station.hearsOther, Station.takes]; decide +kernel

/-- A BEACON of station 1 at column 5, row 1, that lists stations 1 and 2 and last opened frame 4. -/
def beacon : Message := .beacon freeTile 3 6 (some 4)

theorem test_hyp_BeaconAtMemberResetsTheWatch :
    member.mbr.state = .member ∧ member.hearsOther .beacon (beacon.sentBy 1) beacon ∧
      wordParty (beacon.sentBy 1).word ≠ member.number ∧ member.mbr.isMember 1 = true ∧
    member.mbr.isMember 31 = false ∧
    (sending member .beacon).hearsOwn .beacon ((member.assemble .beacon).sentBy 0)
      (.beacon 0 0 7 none) ⟨.beacon, .sending⟩ ∧
      wordParty ((member.assemble .beacon).sentBy 0).word = member.number := by
  simp only [Station.hearsOther, Station.hearsOwn, Station.takes]; decide +kernel

/-- The roster that a station without known tiles adopts from the BEACON. -/
def adopted : List RosterEntry :=
  [RosterEntry.absent, RosterEntry.listed (some (tileBits freeTile)), RosterEntry.listed none] ++
    List.replicate 29 RosterEntry.absent

theorem test_hyp_BeaconIsAdoptedBeforeMembership :
    State.reset.hearsOther .beacon (beacon.sentBy 1) beacon ∧ State.reset.mbr.state = .listening ∧
    joiner.hearsOther .beacon (beacon.sentBy 1) beacon ∧ joiner.mbr.state = .joining ∧
    adopted.length = State.reset.mbr.roster.length ∧
    (∀ (x : Nat) (e : RosterEntry), State.reset.mbr.roster[x]? = some e → adopted[x]? = some
      (if x = wordParty (beacon.sentBy 1).word then RosterEntry.listed (some (tileBits freeTile))
      else if (6 : StationSet).getLsbD x = true ∧ x ≠ State.reset.number then
        RosterEntry.listed e.tile else RosterEntry.absent)) ∧
    ¬State.reset.clashes adopted ∧
    (on State.reset fun s => { s with straps := { s.straps with column := 5, row := 1 } }).clashes
      adopted := by
  refine ⟨?_, rfl, ?_, rfl, rfl, ?_, ?_, 1, _, rfl, rfl, Or.inr (by decide +kernel)⟩
  · simp only [Station.hearsOther, Station.takes]; decide +kernel
  · simp only [Station.hearsOther, Station.takes]; decide +kernel
  · intro x e he
    have hx : x < 32 := (List.getElem?_eq_some_iff.mp he).1
    have hm : e ∈ State.reset.mbr.roster := List.mem_of_getElem? he
    have : e = RosterEntry.absent := List.eq_of_mem_replicate hm
    subst this
    revert x
    decide +kernel
  · have free : ∀ e ∈ adopted, e.member = true → e.tile ≠ some ⟨0, 0⟩ := by decide +kernel
    rintro ⟨i, e, he, hm, rfl | ht⟩
    · cases Option.some.inj he
      exact absurd hm (by decide)
    · exact free e (List.mem_of_getElem? he) hm ht

theorem test_hyp_TickOutsideTheDuty :
    (member.hearsOther .tick ((Message.tick 9).sentBy 1) (.tick 9) ∧
      member.mbr.dutyHolder ≠ some (wordParty ((Message.tick 9).sentBy 1).word)) ∧
    (State.reset.hearsOther .tick ((Message.tick 9).sentBy 1) (.tick 9) ∧
      State.reset.mbr.state ≠ .member) ∧
    (widowed.hearsOther .tick ((Message.tick 9).sentBy 1) (.tick 9) ∧
      widowed.mbr.dutyHolder = some 1 ∧ widowed.mbr.holderRemoved = true) ∧
    ((sending ruled (.tick 9)).hearsOwn .tick ((Message.tick 9).sentBy 0) (.tick 9) ⟨.tick 9, .sending⟩ ∧
      (sending ruled (.tick 9)).mbr.state = .member ∧
      (sending ruled (.tick 9)).mbr.dutyHolder ≠ some (wordParty ((Message.tick 9).sentBy 0).word)) := by
  simp only [Station.hearsOther, Station.hearsOwn, Station.takes]; decide +kernel

/-- Frame 5 READY with its barrier complete, at refresh n under holder 1. -/
def barrier (n : Refresh) : State :=
  on (holding .ready .drained) fun s => { s with
    mbr := { s.mbr with dutyHolder := some 1 }
    ftc := { s.ftc with
      refresh := n
      records := s.ftc.records.map fun r => { r with readyStations := r.requiredStations } } }

theorem test_hyp_AcceptedTickComparesCommitsAndOpensTheSlot :
    ((barrier 9).hearsOther .tick ((Message.tick 9).sentBy 1) (.tick 9) ∧
      (barrier 9).mbr.dutyHolder = some (wordParty ((Message.tick 9).sentBy 1).word) ∧
      (barrier 9).mbr.holderRemoved = false ∧ (barrier 9).ftc.refresh = 9) ∧
    ((barrier 10).ftc.refresh = (9 : Refresh) + 1 ∧
      (barrier 11).ftc.refresh ≠ (9 : Refresh) ∧ (barrier 11).ftc.refresh ≠ (9 : Refresh) + 1) ∧
    (∃ x, (barrier 9).ftc.commits x) ∧ (∀ x, ¬ruled.ftc.commits x) ∧
    (sending member (.tick 8)).hearsOwn .tick ((Message.tick 8).sentBy 0) (.tick 8)
      ⟨.tick 8, .sending⟩ ∧ (8 : Refresh).toNat % 8 = member.number % 8 ∧
      (9 : Refresh).toNat % 8 ≠ member.number % 8 := by
  refine ⟨?_, by decide +kernel, ⟨{ frameIn 5 .b0 .ready with readyStations := 3 }, ?_⟩, ?_, ?_⟩
  · simp only [Station.hearsOther, Station.takes]; decide +kernel
  · refine ⟨by decide +kernel, fun i h => h, fun p h => ?_, by decide +kernel⟩
    have none4 : (barrier 9).ftc.find (5 - 1) = none := by decide +kernel
    cases none4.symm.trans h
  · intro x h
    exact absurd h.1 (by simp [ruled, member, on, State.reset, Station.released, Ftc.reset,
      Station.onMbr])
  · simp only [Station.hearsOwn, Station.takes]; decide +kernel

/-- OPEN(7) with a mode for source 40. -/
def open7 (mode : Byte) (colour : Option Pixel) : Message := .openFrame 7 mode colour (partyBit 40)

/-- A MEMBER that has shown frame 5 and retires frame 6's predecessor: one window record or none. -/
def shown (b : FrameState) : State := holding .shown b

theorem test_hyp_OpenIsAdmittedOnFourConditions :
    ((shown .ready).hearsOther .openFrame ((open7 0 (some grey)).sentBy 40) (open7 0 (some grey)) ∧
      (shown .ready).mbr.state = .member ∧ (shown .ready).ftc.lastOpened = some 6 ∧
      (7 : FrameNo) = 6 + 1 ∧ (8 : FrameNo) ≠ 6 + 1 ∧
      (shown .ready).ftc.records.countP (fun r => r.state != .shown && r.state != .retiring) = 1 ∧
      ((shown .ready).ftc.buffers.get .b2).state = .free) ∧
    (holding .ready .ready).ftc.records.countP
      (fun r => r.state != .shown && r.state != .retiring) = 2 ∧
    (∀ b, ((on (shown .ready) (Station.onFtc (Ftc.onBuffer .b2 fun d =>
      { d with state := .heldImage }))).ftc.buffers.get b).state ≠ .free) ∧
    (2 : Byte).toNat = 2 ∧ 2 < (3 : Byte).toNat ∧ partyBit 40 ≠ 0 ∧
    (∀ i < 32, (partyBit 32).getLsbD i = false) ∧ ∃ i < 32, (partyBit 31).getLsbD i = true := by
  refine ⟨?_, by decide +kernel, fun b => by cases b <;> decide +kernel, by decide, by decide,
    by decide, by decide +kernel, 31, by decide, by decide +kernel⟩
  simp only [Station.hearsOther, Station.takes]; decide +kernel

theorem mayOpen (mode : Byte) (hm : mode.toNat ≤ 2) : (shown .ready).MayOpen 7 mode (partyBit 40) .b2 where
  member := rfl
  next := by intro l h; cases h; decide
  window := by decide +kernel
  free := rfl
  lowest := by intro c h; cases c <;> revert h <;> decide +kernel
  mode := hm
  sources := by decide +kernel
  new := by decide +kernel

theorem test_hyp_OpenBindsABufferAndMakesTheRecord :
    (State.reset.hearsOther .openFrame ((open7 0 (some grey)).sentBy 40) (open7 0 (some grey)) ∧
      State.reset.mbr.state ≠ .member) ∧
    (shown .ready).hearsOther .openFrame ((open7 2 none).sentBy 40) (open7 2 none) ∧
    (shown .ready).MayOpen 7 2 (partyBit 40) .b2 ∧
    (shown .ready).MayOpen 7 1 (partyBit 40) .b2 ∧ (shown .ready).copyStarts 7 = true ∧
      (shown .ready).fie = [] := by
  refine ⟨?_, ?_, mayOpen 2 (by decide), mayOpen 1 (by decide), by decide +kernel, rfl⟩ <;>
  · simp only [Station.hearsOther, Station.takes]; decide +kernel

theorem test_hyp_OpenStartsTheInitialisation :
    (shown .ready).MayOpen 7 0 (partyBit 40) .b2 ∧ (shown .ready).MayOpen 7 1 (partyBit 40) .b2 ∧
    (shown .ready).hearsOther .openFrame ((open7 1 none).sentBy 40) (open7 1 none) ∧
    (shown .ready).fie = [] ∧ (∃ p, (shown .ready).ftc.find (7 - 1) = some p ∧ p.state = .ready) ∧
    (∃ p, (shown .sealed).ftc.find (7 - 1) = some p ∧ p.state = .sealed) ∧
    member.ftc.find (7 - 1) = none ∧ (∃ j, lastInit.fie = [j] ∧ j.phase ≠ .queued) := by
  refine ⟨mayOpen 0 (by decide), mayOpen 1 (by decide), ?_, rfl, ⟨frameIn 6 .b1 .ready, ?_⟩,
    ⟨frameIn 6 .b1 .sealed, ?_⟩, rfl, ⟨_, rfl, ?_⟩⟩ <;>
  (try simp only [Station.hearsOther, Station.takes]) <;> decide +kernel

theorem test_hyp_CloseIsAdmittedFromAnOpenSource :
    ((holding .filling .init).hearsOther .closeFrame ((Message.closeFrame 5).sentBy 40) (.closeFrame 5) ∧
      (holding .filling .init).mbr.state = .member ∧
      (holding .filling .init).ftc.find 5 = some (frameIn 5 .b0 .filling) ∧
      (frameIn 5 .b0 .filling).requiredSources.getLsbD 40 = true ∧
      (frameIn 5 .b0 .filling).closedSources.getLsbD 40 = false ∧
      (frameIn 5 .b0 .filling).requiredSources.getLsbD 41 = false) ∧
    (holding .sealed .sealed).ftc.find 5 = some (frameIn 5 .b0 .sealed) ∧
    (holding .filling .init).ftc.find 4 = none ∧ (holding .filling .init).ftc.find 2 = none ∧
    (holding .filling .init).ftc.f0 = some (4 + 1) ∧ (2 : FrameNo) ≠ 5 - 1 ∧ (2 : FrameNo) ≠ 5 - 2 ∧
    member.ftc.f0 = none := by
  simp only [Station.hearsOther, Station.takes]; decide +kernel

/-- Frame 5 FILLING with one write pending. -/
def pendingOne : State :=
  on (holding .filling .filling) (Station.onFtc (Ftc.pendingUp 5))

theorem test_hyp_CloseSealsTheRecord :
    ((holding .filling .init).hearsOther .closeFrame ((Message.closeFrame 5).sentBy 40) (.closeFrame 5) ∧
      (holding .filling .init).ftc.find 5 = some (frameIn 5 .b0 .filling) ∧
      (frameIn 5 .b0 .filling).requiredSources.getLsbD
        (wordParty ((Message.closeFrame 5).sentBy 40).word) = true) ∧
    ((holding .filling .init).hearsOther .closeFrame ((Message.closeFrame 6).sentBy 40) (.closeFrame 6) ∧
      (holding .filling .init).ftc.find 6 = some (frameIn 6 .b1 .init)) ∧
    (pendingOne.hearsOther .closeFrame ((Message.closeFrame 5).sentBy 40) (.closeFrame 5) ∧
      pendingOne.ftc.find 5 = some { frameIn 5 .b0 .filling with pending := 1 }) ∧
    (holding .filling .init).hearsOther .closeFrame ((Message.closeFrame 3).sentBy 40) (.closeFrame 3) ∧
      (holding .filling .init).ftc.find 3 = none ∧ (holding .filling .init).ftc.f0 = some (3 + 2) ∧
    State.reset.hearsOther .closeFrame ((Message.closeFrame 5).sentBy 40) (.closeFrame 5) ∧
      State.reset.mbr.state ≠ .member := by
  simp only [Station.hearsOther, Station.takes]; decide +kernel

/-- Frame 5 FILLING, and the COPY of frame 6 waiting for it to drain. -/
def copyWaiting : State :=
  on (holding .filling .init) fun t => { t with fie := [InitJob.made 6 .copy .b1 none .waiting] }

theorem test_hyp_DropRemovesTheSourceFromOpenRecords :
    ((holding .filling .ready).hearsOther .drop ((Message.drop 63).sentBy 40) (.drop 63) ∧
      (holding .filling .ready).mbr.state = .member ∧ 32 ≤ (63 : Byte).toNat ∧ (63 : Byte).toNat ≤ 63 ∧
      (holding .filling .ready).ftc.find 5 = some (frameIn 5 .b0 .filling) ∧
      (holding .filling .ready).ftc.find 6 = some (frameIn 6 .b1 .ready)) ∧
    (member.hearsOther .drop ((Message.drop 31).sentBy 40) (.drop 31) ∧ (31 : Byte).toNat < 32) ∧
    (member.hearsOther .drop ((Message.drop 64).sentBy 40) (.drop 64) ∧ 63 < (64 : Byte).toNat) ∧
    State.reset.hearsOther .drop ((Message.drop 32).sentBy 40) (.drop 32) ∧
    (copyWaiting.hearsOther .drop ((Message.drop 40).sentBy 63) (.drop 40) ∧
      copyWaiting.copyWaits 5 = true ∧ copyWaiting.copyWaits 6 = false ∧
      copyWaiting.ftc.find 5 = some (frameIn 5 .b0 .filling) ∧
      (frameIn 5 .b0 .filling).requiredSources &&& ~~~(1#64 <<< 40) = 0 ∧
      copyWaiting.readyEntry 5 = [⟨.ready 5, .waiting⟩]) := by
  simp only [Station.hearsOther, Station.takes]; decide +kernel

theorem test_hyp_ReadyJoinsTheReadyStations :
    (holding .drained .filling).hearsOther .ready ((Message.ready 5).sentBy 1) (.ready 5) ∧
      (holding .drained .filling).mbr.state = .member ∧
    (sending (holding .drained .filling) (.ready 5)).hearsOwn .ready ((Message.ready 5).sentBy 0)
      (.ready 5) ⟨.ready 5, .sending⟩ ∧
    State.reset.hearsOther .ready ((Message.ready 5).sentBy 1) (.ready 5) := by
  simp only [Station.hearsOther, Station.hearsOwn, Station.takes]; decide +kernel

/-- FILL and RUN of the corner. -/
def fills : Message := .fill corner grey
def runs : Message := .run corner 2 [grey, grey]

/-- A MEMBER with n apply records of one pixel each for frame 6. -/
def filled (n : Nat) : State :=
  on (holding .filling .filling) (Station.onInq fun _ => List.replicate n
    { frame := 6, paint := .run [grey], op := .replace, mask := 15, rect := ⟨0, 0, 1, 1⟩
      row := 0, col := 0 })

/-- Writes at the ends of the ranges of the fields. -/
def widest : WriteHead := { corner with x := 65280, width := 256, op := 3, mask := 1 }

theorem test_hyp_WriteIsDecidedOnSevenConditions :
    ((filled 31).hearsOther .fill (fills.sentBy 40) fills ∧ (filled 31).mbr.state = .member ∧
      corner.inRange ∧ (filled 31).ftc.find 5 = some (frameIn 5 .b0 .filling) ∧
      (filled 31).clip corner.x corner.y corner.width corner.height = some ⟨0, 0, 2, 1⟩ ∧
      (32, 4096) = (filled 31).writeLimits corner.frame ∧
      (filled 31).inq.length + 1 ≤ 32 ∧ 32 < (filled 32).inq.length + 1) ∧
    ((filled 23).hearsOther .run (runs.sentBy 40) runs ∧ corner.countInRange 2 ∧
      (24, 3072) = (filled 23).writeLimits 6 ∧
      (filled 23).inq.length + 1 ≤ 24 ∧ 24 < (filled 24).inq.length + 1 ∧
      storedPixels (filled 23).inq = 23) ∧
    (widest.inRange ∧ widest.countInRange 256 ∧ RasterOp.xor.code = widest.op.toNat) ∧
    ¬{ corner with mask := 0 }.inRange ∧ ¬{ widest with x := 65281 }.inRange ∧
      ¬{ corner with op := 4 }.inRange ∧ ¬corner.countInRange 3 ∧
    (filled 0).clip 1280 0 2 1 = none ∧ (filled 0).clip 1279 0 2 1 = some ⟨1279, 0, 1, 1⟩ := by
  simp only [Station.hearsOther, Station.takes, WriteHead.inRange, WriteHead.countInRange]
  and_intros <;> decide +kernel

/-- A MEMBER that passed another party's message of kind k with something set aside. -/
def passedWith (s : State) (k : Kind) (m : Message) (a : SetAside) : State :=
  on s (Station.onTbi (Tbi.receive
    { code := k.code, sender := 40, message := some m, own := false, refused := false, aside := a }))

theorem hasSetAside_passedWith {s : State} (hs : s.resetAsserted = false) (k : Kind) (m : Message)
    (a : SetAside) : (passedWith s k m a).hasSetAside k a :=
  ⟨hs, _, rfl, rfl, rfl, rfl, rfl, rfl⟩

/-- The apply record of the corner's FILL. -/
def cornerFill : ApplyRecord :=
  { frame := 5, paint := .fill grey, op := .replace, mask := 15, rect := ⟨0, 0, 2, 1⟩, row := 0, col := 0 }

theorem test_hyp_StandingWriteJoinsTheApplyQueue :
    ((filled 31).hearsOther .fill (fills.sentBy 40) fills ∧ corner.inRange ∧
      (filled 31).ftc.find 5 = some (frameIn 5 .b0 .filling) ∧
      (filled 31).clip corner.x corner.y corner.width corner.height = some ⟨0, 0, 2, 1⟩ ∧
      (32, 4096) = (filled 31).writeLimits 5 ∧
      (filled 31).inq.length + 1 ≤ 32 ∧ storedPixels (filled 31).inq + 0 ≤ 4096) ∧
    ((filled 0).hearsOther .run (runs.sentBy 40) runs ∧ corner.countInRange 2 ∧
      (filled 0).clipPixels corner ⟨0, 0, 2, 1⟩ [grey, grey] = [grey, grey] ∧
      (24, 3072) = (filled 0).writeLimits 6) ∧
    State.reset.hearsOther .fill (fills.sentBy 40) fills ∧ State.reset.mbr.state ≠ .member ∧
    member.hearsOther .run (runs.sentBy 40) runs ∧ member.ftc.find 5 = none ∧ member.ftc.f0 = none ∧
    (passedWith (filled 0) .fill fills (.apply cornerFill)).hasSetAside .fill (.apply cornerFill) := by
  simp only [Station.hearsOther, Station.takes, WriteHead.inRange, WriteHead.countInRange]
  and_intros
  all_goals first | exact hasSetAside_passedWith rfl .. | decide +kernel

theorem test_hyp_ClippingKeepsThePositionsOnTheTile :
    member.clip 1279 719 65535 1 = some ⟨1279, 719, 1, 1⟩ ∧ member.clip 0 720 1 1 = none ∧
      [grey, grey].length = corner.width.toNat * corner.height.toNat := by decide +kernel

theorem test_hyp_CandidateIsHighestThenEarliest : member.HistoryFits :=
  ⟨by decide +kernel, fun r => by cases r <;> decide +kernel⟩

/-- A request of MREF that stands. -/
def oneDebt : State := ran .memoryRefreshExpiry member

theorem test_hyp_RequestAtIdleArbiterIsGranted :
    oneDebt.resetAsserted = false ∧ oneDebt.InitListFits ∧ oneDebt.mar.burst = none ∧
      oneDebt.requests .mref = true ∧ oneDebt.requests .scan = false ∧
      (inFlight oneDebt .mref).mar.burst ≠ none := by
  refine ⟨by decide +kernel, ⟨fun j rest h => ?_, fun j h => ?_⟩, by decide +kernel, by decide +kernel,
    by decide +kernel, by decide +kernel⟩
  · have none : oneDebt.fie = [] := by decide +kernel
    cases none.symm.trans h
  · have none : oneDebt.fie = [] := by decide +kernel
    rw [none] at h
    exact absurd h List.not_mem_nil

/-- A MEMBER with a debt. -/
def owing (n : Nat) : State := on member (Station.onMar fun a => { a with debt := n })

theorem test_hyp_ProfileAndUrgencyGiveTheLevel :
    (ran .wsyncEdge (shown .filling)).urgent .scan = true ∧ member.urgent .scan = false ∧
      (owing 6).urgent .mref = true ∧ (owing 5).urgent .mref = false ∧
      (∀ pins busy, Instr.busIdle ≠ .resetRelease pins busy) ∧
      exec .busIdle member = .next (ran .busIdle member) :=
  ⟨by decide +kernel, by decide +kernel, by decide +kernel, by decide +kernel, (fun _ _ h => by cases h),
    rfl⟩

theorem test_hyp_RefreshDebtRisesAndFalls :
    (owing 7).resetAsserted = false ∧ (owing 7).mar.debt < 8 ∧ 8 ≤ (owing 8).mar.debt ∧
      (inFlight (owing 8) .mref).mar.burst = some ⟨.mref, false⟩ := by decide +kernel

theorem test_hyp_CompletionClearsTheMarksAndDecides :
    (inFlight oneDebt .mref).resetAsserted = false ∧ (inFlight oneDebt .mref).mar.inFlight ≠ some .scan ∧
      (inFlight oneDebt .mref).mar.burst = some ⟨.mref, false⟩ ∧
      BurstWork.mref.requester = .mref := by decide +kernel

/-- A MEMBER that shows frame 5, at the last segment of line 0, with its SCAN burst in flight. -/
def scanning : State :=
  inFlight (on (ran .wsyncEdge (shown .filling)) (Station.onScn fun c =>
    { c with fetch := some ⟨0, 19⟩ })) (.scan .b0 0 19)

theorem test_hyp_ScanBurstFillsTheFifo :
    scanning.resetAsserted = false ∧ scanning.mar.burst = some ⟨.scan .b0 0 19, false⟩ ∧
      scanning.scn.fetch = some ⟨0, 19⟩ ∧ ¬19 + 1 < scanning.width / 64 ∧ 0 + 1 < scanning.height ∧
      (inFlight member (.scan .b0 0 19)).scn.fetch ≠ some ⟨0, 19⟩ := by decide +kernel

/-- The corner's APPLY burst in flight. -/
def applying : State := inFlight writing (.apply ⟨.b0, 0, 0, 2⟩ .replace 15 [grey, grey] 0)

/-- The same with frame 5 SEALED and the COPY of frame 6 waiting. -/
def sealing : State := on applying fun t => { t with
  ftc := (t.ftc.setState 5 .sealed).setState 6 .init
  fie := [InitJob.made 6 .copy .b1 none .waiting] }

theorem test_hyp_ApplyBurstWritesAndAdvances :
    applying.resetAsserted = false ∧ Memory.wf applying.mem = true ∧
      applying.mar.burst = some ⟨.apply ⟨.b0, 0, 0, 2⟩ .replace 15 [grey, grey] 0, false⟩ ∧
      (applying.inq[0]?.map fun k => k.rect) = some ⟨0, 0, 2, 1⟩ ∧
      (applying.inq[0]?.map fun k => (k.row, k.col)) = some (0, 0) ∧
      (RasterOp.replace = .replace ∧ (fun (_ n : Byte) => n) = fun _ n => n) ∧
    (sealing.ftc.find 5 = some { frameIn 5 .b0 .sealed with pending := 1 } ∧
      sealing.copyWaits 5 = true ∧ sealing.mar.burst = applying.mar.burst) := by
  and_intros
  all_goals first | decide +kernel | rfl

/-- Frame 6 in INIT, sealed, with its COPY of frame 5 in the last burst and the job of frame 7 behind it. -/
def lastCopy : State :=
  inFlight (on (holding .retiring .init) fun t => { t with
    ftc := (t.ftc.onRecord 6 fun r => { r with requiredSources := 0 }).pinUp 5
    fie := [{ InitJob.made 6 .copy .b1 (some .b0) .running with row := 719, col := 1278 },
      InitJob.made 7 .copy .b2 none .queued] }) (.initCopy .b0 ⟨.b1, 719, 1278, 2⟩)

theorem test_initBurstComplete_copy :
    (ran .initBurstComplete lastCopy).ftc.records.map (fun r => (r.frame, r.state, r.pins)) =
        [(6, .drained, 1)] ∧
      (ran .initBurstComplete lastCopy).tbi.queue = [⟨.ready 6, .waiting⟩] ∧
      (ran .initBurstComplete lastCopy).fie = [InitJob.made 7 .copy .b2 (some .b1) .running] ∧
      (ran .initBurstComplete lastCopy).ftc.buffers.get .b0 = ⟨.free, none, false⟩ := by
  decide +kernel

theorem test_hyp_InitBurstPreparesTheBuffer :
    (lastCopy.resetAsserted = false ∧ Memory.wf lastCopy.mem = true ∧
      lastCopy.mar.burst = some ⟨.initCopy .b0 ⟨.b1, 719, 1278, 2⟩, false⟩ ∧
      (∀ i ∈ lastCopy.fie.tail, i.phase = .queued ∧ i.frame = 6 + 1) ∧
      lastCopy.ftc.find 6 = some { frameIn 6 .b1 .init with requiredSources := 0 } ∧
      lastCopy.ftc.find 5 = some { frameIn 5 .b0 .retiring with pins := 1 } ∧
      lastCopy.copyEndDrops ⟨.initCopy .b0 ⟨.b1, 719, 1278, 2⟩, false⟩ = some .b0) ∧
    (inFlight lastInit (.initFill ⟨.b0, 719, 1278, 2⟩ grey)).resetAsserted = false ∧
      Memory.wf lastInit.mem = true ∧
      (inFlight lastInit (.initFill ⟨.b0, 719, 1278, 2⟩ grey)).mar.burst =
        some ⟨.initFill ⟨.b0, 719, 1278, 2⟩ grey, false⟩ ∧
      lastInit.width ≤ 1278 + 2 ∧ lastInit.height ≤ 719 + 1 ∧
      lastInit.ftc.find 5 = some (frameIn 5 .b0 .init) ∧
      (inFlight lastInit (.initCopy .b1 ⟨.b0, 719, 1278, 2⟩)).mar.burst =
        some ⟨.initCopy .b1 ⟨.b0, 719, 1278, 2⟩, false⟩ := by decide +kernel

/-- Frame 5 SHOWN with a read of the corner, and its READ burst in flight. -/
def reading : State :=
  inFlight (ran (.readRequest (stands (.readRequest 1 none 0 0 2 1) 40)) (shown .filling))
    (.read ⟨.b0, 0, 0, 2⟩ 40 1)

theorem test_hyp_ReadBurstQueuesOneReply :
    reading.resetAsserted = false ∧ reading.mar.burst = some ⟨.read ⟨.b0, 0, 0, 2⟩ 40 1, false⟩ ∧
      (reading.rbe.find? fun x => x.requester == 40 && x.tag == 1).isSome = true ∧
      ∀ k ∈ (inFlight member (.read ⟨.b0, 0, 0, 2⟩ 40 1)).rbe, ¬(k.requester = 40 ∧ k.tag = 1) := by
  decide +kernel

/-- A MEMBER in free-run. -/
def freeRunning : State := ran .syncLost member

theorem test_hyp_PulseBeginsARefresh :
    (member.resetAsserted = false ∧
      ¬((PulseSource.wsyncEdge = .syncLost ∧ member.scn.freeRun = true) ∨
        (PulseSource.wsyncEdge = .freeRunExpiry ∧ member.scn.freeRunTimer = none))) ∧
    (freeRunning.resetAsserted = false ∧ freeRunning.scn.freeRun = true ∧
      freeRunning.scn.freeRunTimer ≠ none) ∧ member.scn.freeRunTimer = none := by decide +kernel

/-- Frame 6 COMMITTED for the next pulse, frame 5 SHOWN, stall counts at n. -/
def showing (n : Nat) : State :=
  on (holding .shown .committed) (Station.onFtc fun t => { t with
    records := t.records.map fun r => { r with showRefresh := some 1, stallCount := n } })

/-- The same with a pin on frame 5. -/
def showingPinned : State := on (showing 0) (Station.onFtc (Ftc.pinUp 5))

theorem test_wsyncEdge_show :
    ((ran .wsyncEdge showingPinned).ftc.records.map fun r => (r.frame, r.state)) =
        [(5, .retiring), (6, .shown)] ∧
      (ran .wsyncEdge showingPinned).ftc.buffers = showingPinned.ftc.buffers := by decide +kernel

theorem test_hyp_PulseShowsTheCommittedFrameAndWatchesStalls :
    ((showing 0).resetAsserted = false ∧ (showing 0).pulseDue .wsyncEdge = true ∧
      [60, 120, 240, 480][(showing 0).straps.stall.toNat]? = some 60 ∧
      (showing 0).mbr.state = .member ∧
      ((showing 0).ftc.records.find? fun x => x.state == .committed).isSome = true ∧
      (showing 0).ftc.refresh + 1 = 1 ∧
      ((showing 0).ftc.records.find? fun x => x.state == .shown).map (fun o => (o.buffer, o.pins)) =
        some (.b0, 0) ∧
      ((showing 0).ftc.buffers.get .b0).state = .bound) ∧
    ((showingPinned.ftc.records.find? fun x => x.state == .shown).map fun o => o.pins) = some 1 ∧
    (holding .filling .filling).pulseDue .freeRunExpiry = false ∧
    freeRunning.pulseDue .freeRunExpiry = true ∧ freeRunning.pulseDue .syncLost = false := by
  decide +kernel

theorem test_hyp_PulseAtMemberMovesTheDutyAndTheWatches :
    member.resetAsserted = false ∧ member.pulseDue .wsyncEdge = true ∧ member.mbr.state = .member ∧
      ruled.pulseDue .syncLost = true ∧ ruled.mbr.state = .member ∧
      (∃ d ∈ (sending member (.tick 0)).tbi.queue, d.msg.kind = .tick ∧ d.status = .sending) ∧
      (∃ d ∈ (sending member (.suspect 1)).tbi.queue, d.msg.kind = .suspect) ∧
      (∀ d ∈ member.tbi.queue, d.msg.kind ≠ .suspect) := by decide +kernel

/-- A listener with a tick watch, a joiner with a wait. -/
def listening (n : Nat) : State := on State.reset (Station.onMbr fun m => { m with tickWatch := n })
def waiting (n : Nat) : State := on joiner (Station.onMbr fun m => { m with joinWait := n })

theorem test_hyp_PulseBeforeMembershipRunsTheJoin :
    ((listening 4).resetAsserted = false ∧ (listening 4).pulseDue .wsyncEdge = true ∧
      (listening 4).mbr.state = .listening ∧ (listening 4).mbr.tickWatch < 5 ∧
      5 ≤ (listening 5).mbr.tickWatch) ∧
    ((waiting 1).mbr.state = .joining ∧ (waiting 1).mbr.joinWait = 1 ∧ 1 < (waiting 2).mbr.joinWait ∧
      (waiting 0).mbr.joinWait = 0 ∧ ¬(waiting 1).clashes (waiting 1).mbr.roster) ∧
    joiner.clashes roster ∧ (outside .idleOut).mbr.state = .idleOut ∧
    (outside .rejected).mbr.state = .rejected := by
  refine ⟨by decide +kernel, ⟨rfl, rfl, by decide +kernel, rfl, ?_⟩, ⟨0, _, rfl, rfl, Or.inl rfl⟩, rfl,
    rfl⟩
  rintro ⟨i, e, he, hm, -⟩
  have : e = RosterEntry.absent := List.eq_of_mem_replicate (List.mem_of_getElem? he)
  subst this
  exact absurd hm (by decide)

theorem test_hyp_NamedPulsesArePulsesWhenDue :
    (ruled.resetAsserted = false ∧ ruled.pulseDue .wsyncEdge = true ∧
      ruled.pulseDue .freeRunExpiry = false) ∧
    (member.mbr.lowestMember = member.mbr.dutyHolder ∧ ruled.mbr.lowestMember ≠ ruled.mbr.dutyHolder ∧
      (on member (Station.onMbr fun m => { m with tickWatch := 2 })).mbr.tickWatch = 2) ∧
    ((listening 5).mbr.state = .listening ∧ (listening 5).mbr.tickWatch = 5) ∧
    ((waiting 1).mbr.state = .joining ∧ (waiting 1).mbr.joinWait = 1) ∧
    ((on member (Station.onMbr fun m => m.setEntry 1 ⟨true, none, 23⟩)).mbr.entry 1).watch = 23 ∧
    ((holding .filling .filling).ftc.records.find? fun x => x.state.isUncommitted) =
      some (frameIn 5 .b0 .filling) ∧
    (∀ r ∈ (holding .shown .shown).ftc.records, r.state.isUncommitted = false) := by decide +kernel

/-- A refresh of frame 5 in ACTIVE at the last segment. -/
def lastSegment : State :=
  on (ran .wsyncEdge (shown .filling)) (Station.onScn fun c =>
    { c with phase := .active, output := ⟨719, 19⟩ })

theorem test_segmentTaken_last :
    (ran .segmentTaken lastSegment).scn.phase = .ended ∧
      (ran .segmentTaken lastSegment).scn.panel = .blanking ∧
      (ran .segmentTaken lastSegment).scn.taken =
        some ⟨⟨719, 19⟩, List.replicate 64 ⟨0, 0, 0⟩⟩ := by decide +kernel

theorem test_hyp_PanelTakesTheSegmentsInRasterOrder :
    ((ran .wsyncEdge member).resetAsserted = false ∧ (ran .wsyncEdge member).scn.phase = .blanking ∧
      member.scn.phase ≠ .blanking ∧ member.scn.phase ≠ .active) ∧
    (lastSegment.resetAsserted = false ∧ lastSegment.scn.phase = .active ∧
      lastSegment.scn.front = some .b0 ∧ lastSegment.scn.fifo = [] ∧
      (none : Option SegPos) =
        (if lastSegment.scn.output.segment + 1 < lastSegment.width / 64 then
          some ⟨lastSegment.scn.output.line, lastSegment.scn.output.segment + 1⟩
        else if lastSegment.scn.output.line + 1 < lastSegment.height then
          some ⟨lastSegment.scn.output.line + 1, 0⟩ else none)) := by decide +kernel

/-- A READ_REQUEST of the corner, of frame 5 and of CURRENT. -/
def asks (sel : Option FrameNo) : Message := .readRequest 1 sel 0 0 2 1

/-- The read record of that request. -/
def readOf (n : FrameNo) : ReadRecord :=
  { requester := 40, tag := 1, frame := n, buffer := .b0, rect := ⟨0, 0, 2, 1⟩, row := 0, col := 0
    nextChunk := 0, unconfirmed := 0 }

theorem test_hyp_ReadRequestIsDecidedAndKept :
    ((shown .committed).hearsOther .readRequest ((asks none).sentBy 40) (asks none) ∧
      (shown .committed).mbr.state = .member ∧ (shown .committed).ftc.selects none 6 ∧
      (shown .filling).ftc.selects none 5 ∧ (shown .filling).ftc.selects (some 6) 6 ∧
      (shown .committed).ftc.find 6 = some (frameIn 6 .b1 .committed) ∧
      (shown .filling).ftc.find 6 = some (frameIn 6 .b1 .filling) ∧
      (shown .committed).clip 0 0 2 1 = some ⟨0, 0, 2, 1⟩ ∧
      (shown .committed).clip 1280 0 2 1 = none ∧ (shown .committed).rbe.length < 4) ∧
    (∀ r ∈ (holding .ready .ready).ftc.records, r.state ≠ .committed ∧ r.state ≠ .shown) ∧
    State.reset.hearsOther .readRequest ((asks (some 5)).sentBy 40) (asks (some 5)) ∧
    member.ftc.find 5 = none ∧ member.ftc.f0 = none ∧
    (∃ k ∈ reading.rbe, k.requester = 40 ∧ k.tag = 1) ∧
    ((passedWith (holding .retiring .shown) .readRequest (asks none) (.read (readOf 5))).hasSetAside
        .readRequest (.read (readOf 5)) ∧
      (holding .retiring .shown).ftc.find 5 = some (frameIn 5 .b0 .retiring)) ∧
    ((passedWith member .readRequest (asks none) (.read (readOf 5))).hasSetAside .readRequest
        (.read (readOf 5)) ∧ member.ftc.find 5 = none) := by
  refine ⟨⟨?_, rfl, Or.inr ⟨rfl, Or.inl ⟨frameIn 6 .b1 .committed, by decide +kernel⟩⟩,
    Or.inr ⟨rfl, Or.inr ⟨by decide +kernel, frameIn 5 .b0 .shown, by decide +kernel⟩⟩, Or.inl rfl,
    by decide +kernel, by decide +kernel, by decide +kernel, by decide +kernel, by decide +kernel⟩, ?_,
    ?_, rfl, rfl, by decide +kernel, ⟨hasSetAside_passedWith rfl .., by decide +kernel⟩,
    hasSetAside_passedWith rfl .., rfl⟩
  · simp only [Station.hearsOther, Station.takes]; decide +kernel
  · decide +kernel
  · simp only [Station.hearsOther, Station.takes]; decide +kernel

/-- The reply of the corner's read, last or not. -/
def reply (last : Bool) : ReplyBody := ⟨40, 1, 5, 0, 0, 0, 1, last, [grey]⟩

theorem test_hyp_CancelsAndRepliesEndTheirRecords :
    (reading.hearsOther .readCancel ((Message.readCancel 1).sentBy 40) (.readCancel 1) ∧
      reading.mbr.state = .member ∧
      (reading.rbe.find? fun d => d.requester == 40 && d.tag == 1).isSome = true) ∧
    (member.hearsOther .readCancel ((Message.readCancel 1).sentBy 40) (.readCancel 1) ∧
      ∀ k ∈ member.rbe, k.requester = 40 → k.tag ≠ 1) ∧
    member.hearsOther .readReply ((Message.readReply (reply true)).sentBy 1) (.readReply (reply true)) ∧
    (sending reading (.readReply (reply true))).hearsOwn .readReply
      ((Message.readReply (reply true)).sentBy 0) (.readReply (reply true))
      ⟨.readReply (reply true), .sending⟩ ∧
    (sending reading (.readReply (reply false))).hearsOwn .readReply
      ((Message.readReply (reply false)).sentBy 0) (.readReply (reply false))
      ⟨.readReply (reply false), .sending⟩ := by
  simp only [Station.hearsOther, Station.hearsOwn, Station.takes]; decide +kernel

/-- A report of a station without records. -/
def report : Message := .statusReport 50 (List.replicate 75 0)

theorem test_hyp_QueriesQueueOrMergeOneReport :
    (State.reset.hearsOther .statusQuery ((Message.statusQuery 0 true).sentBy 50)
        (.statusQuery 0 true) ∧ (0 : Byte).toNat = State.reset.number ∧
      State.reset.stu.pendingReport = false ∧ (32 : Byte).toNat ≠ State.reset.number) ∧
    (on member (Station.setPendingReport true)).hearsOther .statusQuery
      ((Message.statusQuery 0 true).sentBy 50) (.statusQuery 0 true) ∧
    member.hearsOther .statusReport (report.sentBy 1) report ∧
    (sending member (.statusReport 50 false)).hearsOwn .statusReport (report.sentBy 0) report
      ⟨.statusReport 50 false, .sending⟩ := by
  refine ⟨?_, ?_, hearsOther_sent (m := report) ?_ ?_ ?_, hearsOwn_sent (m := report) ?_ ?_ ?_⟩ <;>
  · try simp only [Station.hearsOther, Station.takes]
    decide +kernel

theorem test_hyp_MessagesReadAsTheyWereSent :
    fills.sendable 63 ∧ report.sendable 31 ∧ (open7 0 (some grey)).sendable 32 ∧
      (open7 1 none).sendable 32 ∧ member.ftc.records.length < 256 ∧ member.rbe.length < 256 := by
  refine ⟨⟨?_, ?_, trivial⟩, ⟨?_, ?_, ?_⟩, ⟨?_, ?_, ?_⟩, ⟨?_, ?_, ?_⟩, ?_, ?_⟩
  case refine_5 => exact (by decide +kernel : reportLengthFits (List.replicate 75 0) = true)
  case refine_8 => exact (by decide : ((some grey).isSome = true ↔ (0 : Byte) = 0))
  case refine_11 => exact (by decide : ((none : Option Pixel).isSome = true ↔ (1 : Byte) = 0))
  all_goals decide +kernel

theorem test_hyp_MemoryStaysCanonical :
    Memory.wf ({ member with pending := [.busIdle] } : State).mem = true ∧
      step { member with pending := [.busIdle] } = .next (ran .busIdle member) := ⟨rfl, rfl⟩

theorem member_bounded : member.Bounded := by
  constructor <;> decide +kernel

theorem test_hyp_EveryStepKeepsTheStationSound : member.Sound where
  memory := rfl
  bounded := member_bounded
  history := test_hyp_CandidateIsHighestThenEarliest
  marks := by
    intro _ b
    refine ⟨⟨fun h => ?_, ?_⟩, ?_⟩
    · cases b <;> exact absurd h (by decide +kernel)
    · rintro ⟨x, h, -⟩
      exact absurd h (by simp [member, on, State.reset, Station.released, Mar.reset, Station.onMbr])
    · cases b <;> decide +kernel
  initList := ⟨fun _ _ h => (List.cons_ne_nil _ _ h.symm).elim, fun _ h => absurd h List.not_mem_nil⟩
  nonMember := fun h => absurd rfl h
  oneOffer := by intro _; decide +kernel
  sets := fun r h => absurd h List.not_mem_nil
  panel := by intro _; decide +kernel

end Sys2Proof.Tests
end

section
/-! PROOF. The decision at the check code, the void of an own message step by step, and the statements about
joining and leaving the wall (R17, R18, R32, R42, R46). -/

namespace Sys2Proof.Machine

/-! ## The decision at the check code (R6) -/

section
variable {k : Kind} {h : Heard} {m : Message} {s : State}

theorem refuses_of_decide {c : Counter} (ho : s.hearsOther k h m) (hs : s.mbr.state = .member)
    (hd : decideOf k (wordParty h.word) m s.toStation = .refuse c) :
    Refuses c k h m s (s.putStation (s.toStation.hear k (decideOf k) h)) := by
  rw [Station.hear_refused ho hs hd]
  exact ⟨rfl, rfl, .of_touches (.step (touches_onTbi _ _) (touches_count _ _) (by decide) (by decide))⟩

theorem passes_of_decide {a : SetAside} (ho : s.hearsOther k h m) (hs : s.mbr.state = .member)
    (hd : decideOf k (wordParty h.word) m s.toStation = .pass a) :
    Passes a k h m s (s.putStation (s.toStation.hear k (decideOf k) h)) := by
  rw [Station.hear_passed ho hs hd]
  exact ⟨rfl, .of_touches (touches_onTbi _ _)⟩

end

/-- The decision's test is the grounds of the statements, which name the roster's entries (R32). -/
theorem Station.refusesJoin_iff (s : Station) (x : Nat) (b : Byte) :
    s.refusesJoin x b ↔ x = s.number ∨ tileTaken x (tileOfByte b) 0 s.mbr.roster = true ∨
      formatOfByte b ≠ s.straps.format := by
  simp only [tileTaken_iff, Nat.zero_add]
  rfl

theorem decideJoin_of_refusesJoin {s : Station} {x : Nat} {b : Byte} (h : s.refusesJoin x b) :
    decideJoin x (.join b) s = .refuse .joinConflict :=
  if_pos ((s.refusesJoin_iff x b).mp h)

theorem decideJoin_of_not_refusesJoin {s : Station} {x : Nat} {b : Byte} (h : ¬s.refusesJoin x b) :
    decideJoin x (.join b) s = .pass .nothing :=
  if_neg fun c => h ((s.refusesJoin_iff x b).mpr c)

theorem decideSuspect_own {s : Station} (p : Nat) {x : Byte} (h : x.toNat = s.number) :
    decideSuspect p (.suspect x) s = .refuse .suspectDenied := if_pos h

theorem decideSuspect_other {s : Station} (p : Nat) {x : Byte} (h : x.toNat ≠ s.number) :
    decideSuspect p (.suspect x) s = .pass .nothing := if_neg h

/-! ## The void of an own message (R13, R17, R18) -/

theorem Tbi.enterHeldTick_eq (t : Tbi) :
    t.enterHeldTick = { t with queue := t.queue ++ t.heldEntry, heldTick := none } := by
  obtain ⟨_, held, _, _, _, _, _⟩ := t
  cases held <;> simp [Tbi.enterHeldTick, Tbi.heldEntry, Tbi.push]

/-- Below its limit the streak moves with the damage slot alone, and no bus fault comes (R18). -/
theorem Station.streak_of_below {damage : Bool} {s : Station} (h : damage = true → s.tbi.voidStreak < 31) :
    s.streak damage =
      s.onTbi fun t => { t with voidStreak := if damage then t.voidStreak + 1 else t.voidStreak } := by
  cases damage with
  | false => rfl
  | true =>
    have below : s.tbi.voidStreak + 1 < 32 := Nat.succ_lt_succ (h rfl)
    simp [Station.streak, below]

theorem Station.ownVoid_of_inTransmission {s : Station} {e : TxEntry} (damage : Bool)
    (h : s.tbi.inTransmission = some e) :
    s.ownVoid damage =
      (((s.count .ownVoided).ownVoidKind e.msg).onTbi Tbi.enterHeldTick).streak damage := by
  simp [Station.ownVoid, h]

/-- The bus interface after an own void that drops the entry, with the streak below its limit (R17, R18). -/
def Tbi.voidDropped (damage : Bool) (t : Tbi) : Tbi :=
  { t with
    queue := t.queue.filter (fun d => d.status != .sending) ++ t.heldEntry
    heldTick := none, sending := none
    voidStreak := if damage then t.voidStreak + 1 else t.voidStreak }

theorem Station.ownVoid_suspect {s : Station} {e : TxEntry} {x : Nat} {damage : Bool}
    (hi : s.tbi.inTransmission = some e) (he : e.msg = .suspect x)
    (hd : damage = true → s.tbi.voidStreak < 31) :
    s.ownVoid damage =
      ((s.count .ownVoided).onTbi (Tbi.voidDropped damage)).onMbr Mbr.suspectVoid := by
  have below : damage = true → (((s.count .ownVoided).ownVoidKind (.suspect x)).onTbi
      Tbi.enterHeldTick).tbi.voidStreak < 31 := by
    simpa [Station.ownVoidKind, Tbi.enterHeldTick_eq, Tbi.removeSent] using hd
  rw [Station.ownVoid_of_inTransmission _ hi, he, Station.streak_of_below below]
  simp [Station.ownVoidKind, Station.onTbi, Station.onMbr, Tbi.enterHeldTick_eq, Tbi.removeSent,
    Tbi.heldEntry, Tbi.voidDropped, bne]

theorem Mbr.suspectVoid_tickWatch {m : Mbr} (h : m.suspectOrigin = some .tickWatch) :
    m.suspectVoid.tickWatch = 0 := by
  simp [Mbr.suspectVoid, h]

theorem Mbr.clearWatch_watch (x : Nat) (m : Mbr) : ((m.clearWatch x).entry x).watch = 0 := by
  by_cases hx : x < m.roster.length
  · simp [Mbr.entry, Mbr.clearWatch, Mbr.setEntry, hx]
  · simp [Mbr.entry, Mbr.clearWatch, Mbr.setEntry, hx, RosterEntry.absent]

theorem Mbr.suspectVoid_watch {m : Mbr} {x : Nat} (h : m.suspectOrigin = some (.beaconWatch x)) :
    (m.suspectVoid.entry x).watch = 0 := by
  have cleared : m.suspectVoid = { m.clearWatch x with suspectOrigin := none } := by
    simp [Mbr.suspectVoid, h]
  rw [cleared]
  exact m.clearWatch_watch x

/-! ## Refused JOINs and SUSPECTs (R32, R42) -/

theorem exec_join_decides {h : Heard} {tile : Byte} {s : State} (hs : s.mbr.state = .member)
    (ho : s.hearsOther .join h (.join tile)) :
    ∃ t, exec (.join (.checkCode h)) s = .next t ∧
      (s.refusesJoin (wordParty h.word) tile → Refuses .joinConflict .join h (.join tile) s t) ∧
      (¬s.refusesJoin (wordParty h.word) tile → Passes .nothing .join h (.join tile) s t) :=
  ⟨_, exec_checkCode (k := .join) ho.1,
    fun hr => refuses_of_decide ho hs (decideJoin_of_refusesJoin hr),
    fun hr => passes_of_decide ho hs (decideJoin_of_not_refusesJoin hr)⟩

theorem exec_suspect_decides {h : Heard} {x : Byte} {s : State} (hs : s.mbr.state = .member)
    (ho : s.hearsOther .suspect h (.suspect x)) :
    ∃ t, exec (.suspect (.checkCode h)) s = .next t ∧
      (x.toNat = s.number → Refuses .suspectDenied .suspect h (.suspect x) s t) ∧
      (x.toNat ≠ s.number → Passes .nothing .suspect h (.suspect x) s t) :=
  ⟨_, exec_checkCode (k := .suspect) ho.1,
    fun hx => refuses_of_decide ho hs (decideSuspect_own (wordParty h.word) hx),
    fun hx => passes_of_decide ho hs (decideSuspect_other (wordParty h.word) hx)⟩

theorem Station.markDamage_tbi (marked : Bool) (s : Station) :
    (if marked then s.count .damageMarked else s).tbi = s.tbi := by
  cases marked <;> rfl

theorem Station.markDamage_mbr (marked : Bool) (s : Station) :
    (if marked then s.count .damageMarked else s).mbr = s.mbr := by
  cases marked <;> rfl

theorem exec_suspect_ownVoids {c : Instr} {e : TxEntry} {marked damage : Bool} {x : Nat} {s : State}
    (ho : s.ownVoids c e marked damage) (he : e.msg = .suspect x)
    (hd : damage = true → s.tbi.voidStreak < 31) :
    ∃ t, exec c s = .next t ∧
      t.tbi = Tbi.voidDropped damage s.tbi.passedBy ∧ t.mbr = s.mbr.suspectVoid := by
  have sent : s.tbi.passedBy.inTransmission = some e := ho.2.2.1
  have below : damage = true → s.tbi.passedBy.voidStreak < 31 := hd
  refine ⟨_, exec_ownVoids ho, ?_⟩
  rw [State.putStation_toStation, Station.ownVoid_suspect (e := e) (x := x)]
  · simp [Station.markDamage_tbi, Station.markDamage_mbr]
  · simpa [Station.markDamage_tbi] using sent
  · exact he
  · simpa [Station.markDamage_tbi] using below

/-- Settles O16: the two decisions at the check code, and the own void of a SUSPECT. -/
theorem joinAndSuspectAreRefusedOnTheirGrounds :
    Obligations.JoinAndSuspectAreRefusedOnTheirGrounds := by
  intro h s hs
  refine ⟨fun tile => exec_join_decides hs, fun x => exec_suspect_decides hs, ?_⟩
  intro c e marked damage x ho he hd
  obtain ⟨t, hexec, htbi, hmbr⟩ := exec_suspect_ownVoids ho he hd
  refine ⟨t, hexec, by rw [htbi]; rfl, by rw [htbi]; rfl, ?_, ?_⟩
  · intro origin
    rw [hmbr, Mbr.suspectVoid_tickWatch origin]
  · intro y origin
    rw [hmbr, Mbr.suspectVoid_watch origin]

/-! ## The return to LISTENING (R46) -/

theorem orderRejoinStands_of_out {r : Receiving} {x : Byte} {s : Station}
    (hm : r.message = some (.orderRejoin x)) (hx : x.toNat = s.number)
    (hs : s.mbr.state = .idleOut ∨ s.mbr.state = .rejected) :
    orderRejoinStands r s = s.onMbr fun m =>
      { m with state := .listening, roster := Mbr.emptyRoster, tickWatch := 0
               retryCount := 0, joinWait := 0 } := by
  simp only [orderRejoinStands, hm, if_pos (And.intro hx hs)]

theorem orderRejoinStands_of_not_out {r : Receiving} {x : Byte} {s : Station}
    (hm : r.message = some (.orderRejoin x))
    (hs : x.toNat ≠ s.number ∨ s.mbr.state = .listening ∨ s.mbr.state = .joining ∨
      s.mbr.state = .member) :
    orderRejoinStands r s = s := by
  have stays : ¬(x.toNat = s.number ∧ (s.mbr.state = .idleOut ∨ s.mbr.state = .rejected)) := by
    rintro ⟨hx, hout⟩
    rcases hs with hs | hs | hs | hs
    · exact hs hx
    all_goals simp [hs] at hout
  simp only [orderRejoinStands, hm, if_neg stays]

theorem touches_orderRejoinStands (r : Receiving) (s : Station) :
    Touches [.mbr] s (orderRejoinStands r s) := by
  unfold orderRejoinStands
  split
  · split
    · exact touches_onMbr _ _
    · exact .refl _ _
  · exact .refl _ _

/-- Settles O24: the message passes everywhere, and its effect stays within the membership unit. -/
theorem orderRejoinReturnsTheStationToListening :
    Obligations.OrderRejoinReturnsTheStationToListening := by
  intro h x s ho
  have heard : (passedRecord .orderRejoin h (.orderRejoin x) false .nothing).message =
    some (.orderRejoin x) := rfl
  have within := touches_orderRejoinStands (passedRecord .orderRejoin h (.orderRejoin x) false .nothing)
    (s.toStation.onTbi Tbi.passedBy)
  refine ⟨_, exec_passedStands ho rfl, within .tbi (by decide), ?_, ?_, ?_, ?_⟩
  · intro hx hout
    exact congrArg Station.mbr
      (orderRejoinStands_of_out (s := s.toStation.onTbi Tbi.passedBy) heard hx hout)
  · intro hin
    exact (congrArg Station.mbr
      (orderRejoinStands_of_not_out (s := s.toStation.onTbi Tbi.passedBy) heard hin)).trans
      (Station.onTbi_mbr _ _)
  · exact congrArg Ftc.heldImage (within .ftc (by decide))
  · exact .of_touches (.step (touches_onTbi _ _) within (by decide) (by decide))

end Sys2Proof.Machine
end

section
/-! PROOF. The decision on a CLOSE (R59, R61). -/

namespace Sys2Proof.Machine

/-! ## The frame condition (R59, R61) -/

theorem FrameState.isOpen_iff (st : FrameState) : st.isOpen = true ↔ st = .init ∨ st = .filling := by
  cases st <;> simp [FrameState.isOpen]

theorem FrameState.isOpen_eq_false_iff (st : FrameState) :
    st.isOpen = false ↔ st ≠ .init ∧ st ≠ .filling := by
  rw [← Bool.not_eq_true, isOpen_iff, not_or]

/-- The F0 test in the words of R59's table: no F0, or a frame one or two before it. -/
theorem Ftc.f0Passes_iff (t : Ftc) (n : FrameNo) :
    t.f0Passes n = true ↔ t.f0 = none ∨ t.f0 = some (n + 1) ∨ t.f0 = some (n + 2) := by
  cases hf : t.f0 with
  | none => simp [f0Passes, hf]
  | some f => simp [f0Passes, hf, BitVec.eq_sub_iff_add_eq, eq_comm (a := f)]

theorem Ftc.f0Passes_eq_false {t : Ftc} {n f : FrameNo} (hf : t.f0 = some f) (h1 : n ≠ f - 1)
    (h2 : n ≠ f - 2) : t.f0Passes n = false := by
  simp only [f0Passes, hf, beq_eq_false_iff_ne.mpr h1, beq_eq_false_iff_ne.mpr h2, Bool.or_self]

/-! ## The decision, condition by condition (R61) -/

section
variable {p : Nat} {n : FrameNo} {s : Station} {r : FrameRecord}

theorem decideClose_of_not_held (p : Nat) (hn : s.ftc.find n = none) :
    decideClose p (.closeFrame n) s =
      if s.ftc.f0Passes n then .pass .nothing else .refuse .frameState := by
  simp only [decideClose, hn]

/-- The decision at a holder of the frame: its state first, then the sender among its sources. -/
theorem decideClose_of_held (p : Nat) (hr : s.ftc.find n = some r) :
    decideClose p (.closeFrame n) s =
      if r.state.isOpen = false then .refuse .frameState
      else if r.requiredSources.getLsbD p = false then .refuse .sourceState
      else if r.closedSources.getLsbD p = true then .refuse .sourceState
      else .pass .nothing := by
  simp only [decideClose, hr]

theorem decideClose_of_sealed (hr : s.ftc.find n = some r) (closed : r.state.isOpen = false) :
    decideClose p (.closeFrame n) s = .refuse .frameState :=
  (decideClose_of_held p hr).trans (if_pos closed)

theorem decideClose_of_not_open_source (hr : s.ftc.find n = some r) (opened : r.state.isOpen = true)
    (source : r.requiredSources.getLsbD p = false ∨ r.closedSources.getLsbD p = true) :
    decideClose p (.closeFrame n) s = .refuse .sourceState := by
  rw [decideClose_of_held p hr, opened]
  rcases source with unrequired | finished
  · simp [unrequired]
  · simp [finished]

theorem decideClose_of_open_source (hr : s.ftc.find n = some r) (opened : r.state.isOpen = true)
    (required : r.requiredSources.getLsbD p = true) (unfinished : r.closedSources.getLsbD p = false) :
    decideClose p (.closeFrame n) s = .pass .nothing := by
  rw [decideClose_of_held p hr, opened, required, unfinished]
  rfl

end

/-- Settles O32: the frame not held, under the F0 test, and the frame held, by its state and the sender. -/
theorem closeIsAdmittedFromAnOpenSource : Obligations.CloseIsAdmittedFromAnOpenSource := by
  intro h n s ho hs
  refine ⟨_, exec_checkCode (k := .closeFrame) ho.1, fun hn => ⟨?_, ?_⟩, fun r hr => ⟨?_, ?_⟩⟩
  · intro f hf h1 h2
    refine refuses_of_decide ho hs ((decideClose_of_not_held _ hn).trans ?_)
    simp [Ftc.f0Passes_eq_false hf h1 h2]
  · intro test
    exact passes_of_decide ho hs
      ((decideClose_of_not_held _ hn).trans (if_pos ((Ftc.f0Passes_iff _ n).mpr test)))
  · intro notOpen
    exact refuses_of_decide ho hs
      (decideClose_of_sealed hr (r.state.isOpen_eq_false_iff.mpr notOpen))
  · intro isOpen
    have opened : r.state.isOpen = true := r.state.isOpen_iff.mpr isOpen
    exact ⟨fun source => refuses_of_decide ho hs (decideClose_of_not_open_source hr opened source),
      fun required unfinished =>
        passes_of_decide ho hs (decideClose_of_open_source hr opened required unfinished)⟩

end Sys2Proof.Machine
end

section
/-! PROOF. The levels of the requesters, and the commands that keep the straps their profile comes from
(R133, R134, R186). -/

namespace Sys2Proof.Machine

/-! ## Levels (R133, R134) -/

theorem Station.urgent_iff (s : Station) (r : Requester) :
    s.urgent r = true ↔ s.requests r = true ∧
      ((r = .scan ∧ s.scn.fifo.length ≤ 2) ∨ (r = .mref ∧ 6 ≤ s.mar.debt)) := by
  cases r <;> simp [Station.urgent]

theorem Station.level_of_urgent {s : Station} {r : Requester} (h : s.urgent r = true) : s.level r = 0 :=
  if_pos h

theorem Station.level_of_not_urgent {s : Station} {r : Requester} (h : s.urgent r = false) :
    s.level r = 1 + profileLevel s.straps.profile r := by
  rw [Station.level, if_neg (Bool.eq_false_iff.mp h), Nat.add_comm]

theorem profile_cases (p : BitVec 2) : p = 0 ∨ p = 1 ∨ p = 2 ∨ p = 3 := by
  revert p
  decide

/-! ## The commands that keep the straps (R186) -/

theorem Still.straps {s t : Station} (h : Still s t) : t.straps = s.straps := by
  obtain ⟨-, straps, -, -⟩ := h
  exact straps

theorem Station.assertReset_straps (s : Station) : s.assertReset.straps = s.straps := by
  unfold Station.assertReset
  cases s.mar.burst <;> rfl

/-- A completion writes the memory at its burst's end, and is Still after that. -/
theorem Station.complete_straps (r : Requester) (s : Station) : (s.complete r).straps = s.straps := by
  unfold Station.complete
  split
  · next b _ =>
    split
    · calc ((s.endBurst b).requesterDone b).decideGrant.straps
        _ = ((s.endBurst b).requesterDone b).straps := (still_decideGrant _).straps
        _ = (s.endBurst b).straps := (still_requesterDone _ _).straps
        _ = s.straps := rfl
    · rfl
  · rfl

/-- A command is a live event that leaves the straps as they are. -/
def LiveKeepingStraps (c : Instr) : Prop :=
  ∃ f : Station → Station, (∀ s, (f s).straps = s.straps) ∧ ∀ s, exec c s = onLive f s

theorem LiveKeepingStraps.of_still {c : Instr} (f : Station → Station) (h : ∀ s, Still s (f s))
    (hc : ∀ s, exec c s = onLive f s) : LiveKeepingStraps c :=
  ⟨f, fun s => (h s).straps, hc⟩

theorem LiveKeepingStraps.message (k : Kind) (e : MsgEvent) : LiveKeepingStraps (commandOf k e) :=
  .of_still _ (still_message (still_standsOf k) k (decideOf k) e) (exec_commandOf k e)

theorem LiveKeepingStraps.namedPulse {c : Instr} (due : Station → Bool) (src : PulseSource)
    (hc : ∀ s, exec c s = onLive (Station.namedPulse due src) s) : LiveKeepingStraps c :=
  .of_still _ (still_namedPulse due src) hc

theorem LiveKeepingStraps.completion {c : Instr} (r : Requester)
    (hc : ∀ s, exec c s = onLive (Station.complete r) s) : LiveKeepingStraps c :=
  ⟨_, Station.complete_straps r, hc⟩

/-- The release alone is no live event; every other row of the table keeps the straps. -/
theorem liveKeepingStraps_of_not_release {c : Instr} (h : ∀ pins busy, c ≠ .resetRelease pins busy) :
    LiveKeepingStraps c := by
  cases c with
  | resetRelease pins busy => exact absurd rfl (h pins busy)
  | resetAssert => exact ⟨_, Station.assertReset_straps, fun _ => rfl⟩
  | busIdle => exact ⟨_, Station.onTbi_straps Tbi.idle, fun _ => rfl⟩
  | arbitration others => exact .of_still _ (still_arbitrate others) fun _ => rfl
  | tick e => exact .message .tick e
  | suspect e => exact .message .suspect e
  | join e => exact .message .join e
  | leave e => exact .message .leave e
  | wallReset e => exact .message .wallReset e
  | orderLeave e => exact .message .orderLeave e
  | orderRejoin e => exact .message .orderRejoin e
  | drop e => exact .message .drop e
  | ready e => exact .message .ready e
  | beacon e => exact .message .beacon e
  | readReply e => exact .message .readReply e
  | statusReport e => exact .message .statusReport e
  | openFrame e => exact .message .openFrame e
  | closeFrame e => exact .message .closeFrame e
  | fill e => exact .message .fill e
  | run e => exact .message .run e
  | readRequest e => exact .message .readRequest e
  | readCancel e => exact .message .readCancel e
  | statusQuery e => exact .message .statusQuery e
  | unknownKind code e => exact .of_still _ (still_unknownMessage code e) fun _ => rfl
  | wsyncEdge => exact .of_still _ still_wsyncEdge fun _ => rfl
  | syncLost => exact .of_still _ still_syncLost fun _ => rfl
  | freeRunExpiry => exact .of_still _ still_freeRunExpiry fun _ => rfl
  | beaconWatchExpiry src x => exact .namedPulse (Station.beaconWatchDue x.toNat) src fun _ => rfl
  | tickWatchExpiry src => exact .namedPulse Station.tickWatchDue src fun _ => rfl
  | listenTimeout src => exact .namedPulse Station.listenDue src fun _ => rfl
  | joinWaitEnd src => exact .namedPulse Station.joinWaitDue src fun _ => rfl
  | stall src => exact .namedPulse Station.stallDue src fun _ => rfl
  | blankingEnd => exact .of_still _ still_blankingEnd fun _ => rfl
  | segmentTaken => exact .of_still _ still_segmentTaken fun _ => rfl
  | memoryRefreshExpiry => exact .of_still _ still_refreshExpiry fun _ => rfl
  | requestAtIdleArbiter r => exact .of_still _ (still_requestAtIdle r) fun _ => rfl
  | scanBurstComplete => exact .completion .scan fun _ => rfl
  | mrefBurstComplete => exact .completion .mref fun _ => rfl
  | applyBurstComplete => exact .completion .apply fun _ => rfl
  | initBurstComplete => exact .completion .init fun _ => rfl
  | readBurstComplete => exact .completion .read fun _ => rfl

theorem exec_straps {c : Instr} {s t : State} (h : ∀ pins busy, c ≠ .resetRelease pins busy)
    (hexec : exec c s = .next t) : t.straps = s.straps := by
  obtain ⟨f, keeps, runs⟩ := liveKeepingStraps_of_not_release h
  obtain ⟨u, live, -, station⟩ := onLive_next f s
  obtain rfl : u = t := Host.Outcome.next.inj (live.symm.trans ((runs s).symm.trans hexec))
  rw [station]
  split
  · rfl
  · exact keeps s.toStation

/-- Settles O39: R133's table profile by profile, R134's urgency, and the straps kept by every command but
the release. -/
theorem profileAndUrgencyGiveTheLevel : Obligations.ProfileAndUrgencyGiveTheLevel := by
  refine ⟨fun s r => ⟨Station.level_of_urgent, fun calm => ?_, s.urgent_iff r⟩, fun c s t h hexec => ?_⟩
  · rw [Station.level_of_not_urgent calm]
    rcases profile_cases s.straps.profile with hp | hp | hp | hp <;> rw [hp] <;> cases r <;> rfl
  · rw [exec_straps h hexec]

end Sys2Proof.Machine
end

section
/-! PROOF. The candidate of a grant decision: the search along the grant history finds its leader (R136). -/

namespace Sys2Proof.Machine

section
variable {s : Station} {h : List Requester} {r q x : Requester}

/-! ## One comparison -/

theorem Station.better_of_not_standing (best : Option Requester) (hx : s.requests x = false) :
    s.better best x = best := by
  simp [Station.better, hx]

theorem Station.better_none (hx : s.requests x = true) : s.better none x = some x := by
  simp [Station.better, hx]

theorem Station.better_of_higher (hx : s.requests x = true) (hl : s.level x < s.level q) :
    s.better (some q) x = some x := by
  simp [Station.better, hx, hl]

theorem Station.better_of_not_higher (hl : s.level q ≤ s.level x) : s.better (some q) x = some q := by
  simp [Station.better, Nat.not_lt.mpr hl]

/-! ## The order of a decision -/

/-- The requester comes before another under a history: at a higher level, or earlier at the same one. -/
def Station.Before (s : Station) (h : List Requester) (r q : Requester) : Prop :=
  s.level r < s.level q ∨ (s.level r = s.level q ∧ h.idxOf r < h.idxOf q)

theorem Station.Before.asymm (hrq : s.Before h r q) : ¬s.Before h q r := by
  unfold Station.Before at *
  omega

theorem Station.Before.level_le (hrq : s.Before h r q) : s.level r ≤ s.level q := by
  unfold Station.Before at hrq
  omega

theorem Station.Before.concat (hr : r ∈ h) (hq : q ∈ h) (hrq : s.Before h r q) :
    s.Before (h ++ [x]) r q := by
  unfold Station.Before at *
  rwa [List.idxOf_append, List.idxOf_append, if_pos hr, if_pos hq]

/-- A requester of the history comes before a later one that is at no higher level. -/
theorem Station.before_last (hr : r ∈ h) (hx : x ∉ h) (hl : s.level r ≤ s.level x) :
    s.Before (h ++ [x]) r x := by
  have earlier : (h ++ [x]).idxOf r < (h ++ [x]).idxOf x := by
    rw [List.idxOf_append, List.idxOf_append, if_pos hr, if_neg hx]
    exact Nat.lt_add_left _ (List.idxOf_lt_length_of_mem hr)
  rcases Nat.lt_or_eq_of_le hl with higher | same
  · exact .inl higher
  · exact .inr ⟨same, earlier⟩

/-- The requester's request stands, and it comes before every other of the history whose request stands. -/
structure Station.Leads (s : Station) (h : List Requester) (r : Requester) : Prop where
  listed : r ∈ h
  stands : s.requests r = true
  before : ∀ q ∈ h, s.requests q = true → q ≠ r → s.Before h r q

theorem Station.Leads.level_le (lead : s.Leads h r) (hq : q ∈ h) (hs : s.requests q = true) :
    s.level r ≤ s.level q := by
  by_cases same : q = r
  · exact Nat.le_of_eq (congrArg s.level same.symm)
  · exact (lead.before q hq hs same).level_le

theorem Station.Leads.unique (hr : s.Leads h r) (hq : s.Leads h q) : r = q :=
  Decidable.byContradiction fun ne =>
    (hr.before q hq.listed hq.stands (Ne.symm ne)).asymm (hq.before r hr.listed hr.stands ne)

/-- A longer history keeps its leader, unless the new requester stands at a higher level. -/
theorem Station.Leads.concat (lead : s.Leads h r) (hx : x ∉ h)
    (calm : s.requests x = true → s.level r ≤ s.level x) : s.Leads (h ++ [x]) r where
  listed := List.mem_append_left _ lead.listed
  stands := lead.stands
  before q hq hs ne := by
    rcases List.mem_append.mp hq with old | new
    · exact (lead.before q old hs ne).concat lead.listed old
    · obtain rfl := List.mem_singleton.mp new
      exact Station.before_last lead.listed hx (calm hs)

/-- The last requester of a history leads it when it stands above every other that stands. -/
theorem Station.leads_last (hx : s.requests x = true)
    (above : ∀ q ∈ h, s.requests q = true → s.level x < s.level q) : s.Leads (h ++ [x]) x where
  listed := List.mem_append_right _ (List.mem_singleton_self x)
  stands := hx
  before q hq hs ne := by
    rcases List.mem_append.mp hq with old | new
    · exact .inl (above q old hs)
    · exact absurd (List.mem_singleton.mp new) ne

/-! ## The whole history -/

/-- What the search has found: nothing while no request stands, and else the leader. -/
def Station.Found (s : Station) (h : List Requester) : Option Requester → Prop
  | none => ∀ q ∈ h, s.requests q = false
  | some r => s.Leads h r

theorem Station.Found.concat {best : Option Requester} (found : s.Found h best) (hx : x ∉ h) :
    s.Found (h ++ [x]) (s.better best x) := by
  cases stands : s.requests x with
  | false =>
    rw [Station.better_of_not_standing best stands]
    cases best with
    | none => simpa [Station.Found, or_imp, forall_and, stands] using found
    | some r => exact Station.Leads.concat found hx (by simp [stands])
  | true =>
    cases best with
    | none =>
      rw [Station.better_none stands]
      exact Station.leads_last stands fun q hq hs => absurd hs (by simp [found q hq])
    | some r =>
      have lead : s.Leads h r := found
      rcases Nat.lt_or_ge (s.level x) (s.level r) with higher | calm
      · rw [Station.better_of_higher stands higher]
        exact Station.leads_last stands fun q hq hs => Nat.lt_of_lt_of_le higher (lead.level_le hq hs)
      · rw [Station.better_of_not_higher calm]
        exact lead.concat hx fun _ => calm

/-- The search from what it has found along a part of the history, over the rest. -/
theorem Station.Found.foldl_better {best : Option Requester} (rest : List Requester)
    (found : s.Found h best) (nodup : (h ++ rest).Nodup) :
    s.Found (h ++ rest) (rest.foldl s.better best) := by
  induction rest generalizing h best with
  | nil =>
    rw [List.append_nil]
    exact found
  | cons x rest ih =>
    obtain ⟨-, -, apart⟩ := List.nodup_append.mp nodup
    have hx : x ∉ h := fun mem => apart x mem x List.mem_cons_self rfl
    rw [List.append_cons] at nodup ⊢
    exact ih (found.concat hx) nodup

theorem Station.found_candidate (fits : s.HistoryFits) : s.Found s.mar.history s.candidate := by
  obtain ⟨nodup, -⟩ := fits
  have start : s.Found [] none := fun q hq => absurd hq List.not_mem_nil
  exact start.foldl_better s.mar.history nodup

theorem Station.candidate_eq_none_iff (fits : s.HistoryFits) :
    s.candidate = none ↔ ∀ r, s.requests r = false := by
  have found := Station.found_candidate fits
  obtain ⟨-, listed⟩ := fits
  cases hc : s.candidate with
  | none =>
    rw [hc] at found
    exact iff_of_true rfl fun r => found r (listed r)
  | some r =>
    rw [hc] at found
    have stands : s.requests r = true := Station.Leads.stands found
    exact iff_of_false (Option.some_ne_none r) fun silent => by simp [silent r] at stands

theorem Station.candidate_eq_some_iff (fits : s.HistoryFits) :
    s.candidate = some r ↔ s.Leads s.mar.history r := by
  have found := Station.found_candidate fits
  constructor
  · intro hc
    rw [hc] at found
    exact found
  · intro lead
    cases hc : s.candidate with
    | none =>
      have stands := lead.stands
      simp [(Station.candidate_eq_none_iff fits).mp hc r] at stands
    | some q =>
      rw [hc] at found
      rw [Station.Leads.unique found lead]

theorem Station.leads_history_iff (fits : s.HistoryFits) :
    s.Leads s.mar.history r ↔
      s.requests r = true ∧ ∀ q, s.requests q = true → q ≠ r → s.Before s.mar.history r q := by
  obtain ⟨-, listed⟩ := fits
  exact ⟨fun lead => ⟨lead.stands, fun q => lead.before q (listed q)⟩,
    fun ⟨stands, before⟩ => ⟨listed r, stands, fun q _ => before q⟩⟩

theorem Station.decideGrant_of_some (hc : s.candidate = some r) : s.decideGrant = s.grant r := by
  simp [Station.decideGrant, hc]

theorem Station.decideGrant_of_none (hc : s.candidate = none) : s.decideGrant = s := by
  simp [Station.decideGrant, hc]

end

/-- Settles O41: the search along the history finds the leader of the requests that stand. -/
theorem candidateIsHighestThenEarliest : Obligations.CandidateIsHighestThenEarliest := fun _ fits =>
  ⟨Station.candidate_eq_none_iff fits,
    fun _ => (Station.candidate_eq_some_iff fits).trans (Station.leads_history_iff fits),
    fun _ => Station.decideGrant_of_some, Station.decideGrant_of_none⟩

end Sys2Proof.Machine
end

section
/-! PROOF. Every command but the release as one live operation of the station; the tile memory's canonical form
along every step. -/

namespace Sys2Proof.Machine

/-! ## Commands as operations -/

/-- What each command but the release does to a station that takes events. -/
inductive Operation : Instr → (Station → Station) → Prop
  | assertReset : Operation .resetAssert Station.assertReset
  | busIdle : Operation .busIdle (Station.onTbi Tbi.idle)
  | arbitration (others : List Byte) : Operation (.arbitration others) (Station.arbitrate others)
  | message (k : Kind) (e : MsgEvent) :
    Operation (commandOf k e) (Station.message k (decideOf k) (standsOf k) e)
  | unknown (code : Byte) (e : MsgEvent) : Operation (.unknownKind code e) (Station.unknownMessage code e)
  | pulse (src : PulseSource) : Operation (pulseCommand src) (Station.pulseFrom src)
  | namedPulse (c : Instr) (due : Station → Bool) (src : PulseSource) :
    Operation c (Station.namedPulse due src)
  | blankingEnd : Operation .blankingEnd Station.blankingEnd
  | segmentTaken : Operation .segmentTaken Station.segmentTaken
  | refreshExpiry : Operation .memoryRefreshExpiry Station.refreshExpiry
  | requestAtIdle (r : Requester) : Operation (.requestAtIdleArbiter r) (Station.requestAtIdle r)
  | completion (c : Instr) (r : Requester) : Operation c (Station.complete r)

/-- Every command but the release is the live event of one operation. -/
theorem operation_of_not_release {c : Instr} (h : ∀ pins busy, c ≠ .resetRelease pins busy) :
    ∃ f, Operation c f ∧ ∀ s, exec c s = onLive f s := by
  cases c with
  | resetRelease pins busy => exact absurd rfl (h pins busy)
  | resetAssert => exact ⟨_, .assertReset, fun _ => rfl⟩
  | busIdle => exact ⟨_, .busIdle, fun _ => rfl⟩
  | arbitration others => exact ⟨_, .arbitration others, fun _ => rfl⟩
  | tick e => exact ⟨_, .message .tick e, fun _ => rfl⟩
  | suspect e => exact ⟨_, .message .suspect e, fun _ => rfl⟩
  | join e => exact ⟨_, .message .join e, fun _ => rfl⟩
  | leave e => exact ⟨_, .message .leave e, fun _ => rfl⟩
  | wallReset e => exact ⟨_, .message .wallReset e, fun _ => rfl⟩
  | orderLeave e => exact ⟨_, .message .orderLeave e, fun _ => rfl⟩
  | orderRejoin e => exact ⟨_, .message .orderRejoin e, fun _ => rfl⟩
  | drop e => exact ⟨_, .message .drop e, fun _ => rfl⟩
  | ready e => exact ⟨_, .message .ready e, fun _ => rfl⟩
  | beacon e => exact ⟨_, .message .beacon e, fun _ => rfl⟩
  | readReply e => exact ⟨_, .message .readReply e, fun _ => rfl⟩
  | statusReport e => exact ⟨_, .message .statusReport e, fun _ => rfl⟩
  | openFrame e => exact ⟨_, .message .openFrame e, fun _ => rfl⟩
  | closeFrame e => exact ⟨_, .message .closeFrame e, fun _ => rfl⟩
  | fill e => exact ⟨_, .message .fill e, fun _ => rfl⟩
  | run e => exact ⟨_, .message .run e, fun _ => rfl⟩
  | readRequest e => exact ⟨_, .message .readRequest e, fun _ => rfl⟩
  | readCancel e => exact ⟨_, .message .readCancel e, fun _ => rfl⟩
  | statusQuery e => exact ⟨_, .message .statusQuery e, fun _ => rfl⟩
  | unknownKind code e => exact ⟨_, .unknown code e, fun _ => rfl⟩
  | wsyncEdge => exact ⟨_, .pulse .wsyncEdge, fun _ => rfl⟩
  | syncLost => exact ⟨_, .pulse .syncLost, fun _ => rfl⟩
  | freeRunExpiry => exact ⟨_, .pulse .freeRunExpiry, fun _ => rfl⟩
  | beaconWatchExpiry src x => exact ⟨_, .namedPulse _ (Station.beaconWatchDue x.toNat) src, fun _ => rfl⟩
  | tickWatchExpiry src => exact ⟨_, .namedPulse _ Station.tickWatchDue src, fun _ => rfl⟩
  | listenTimeout src => exact ⟨_, .namedPulse _ Station.listenDue src, fun _ => rfl⟩
  | joinWaitEnd src => exact ⟨_, .namedPulse _ Station.joinWaitDue src, fun _ => rfl⟩
  | stall src => exact ⟨_, .namedPulse _ Station.stallDue src, fun _ => rfl⟩
  | blankingEnd => exact ⟨_, .blankingEnd, fun _ => rfl⟩
  | segmentTaken => exact ⟨_, .segmentTaken, fun _ => rfl⟩
  | memoryRefreshExpiry => exact ⟨_, .refreshExpiry, fun _ => rfl⟩
  | requestAtIdleArbiter r => exact ⟨_, .requestAtIdle r, fun _ => rfl⟩
  | scanBurstComplete => exact ⟨_, .completion _ .scan, fun _ => rfl⟩
  | mrefBurstComplete => exact ⟨_, .completion _ .mref, fun _ => rfl⟩
  | applyBurstComplete => exact ⟨_, .completion _ .apply, fun _ => rfl⟩
  | initBurstComplete => exact ⟨_, .completion _ .init, fun _ => rfl⟩
  | readBurstComplete => exact ⟨_, .completion _ .read, fun _ => rfl⟩

/-- A property of the station that the release, every operation of a live station and the passing of time keep
is kept by every step. -/
theorem step_keeps {P : Station → Prop}
    (release : ∀ pins busy s, P s → P (s.releaseReset pins busy))
    (operation : ∀ c f s, Operation c f → s.resetAsserted = false → P s → P (f s))
    (time : ∀ (s : Station) n, P s → P { s.timersRun with free := n })
    {s t : State} (h : P s.toStation) (hstep : step s = .next t) : P t.toStation := by
  cases hp : s.pending with
  | nil =>
    obtain rfl : s.timePasses = t := Host.Outcome.next.inj ((step_nil hp).symm.trans hstep)
    unfold State.timePasses
    split
    · exact h
    · exact time _ _ h
  | cons c rest =>
    rw [step_cons hp] at hstep
    by_cases hc : ∀ pins busy, c ≠ .resetRelease pins busy
    · obtain ⟨f, op, runs⟩ := operation_of_not_release hc
      obtain ⟨u, live, -, station⟩ := onLive_next f { s with pending := rest }
      obtain rfl : u = t := Host.Outcome.next.inj (live.symm.trans ((runs _).symm.trans hstep))
      rw [station]
      split
      · exact h
      · exact operation c f _ op (Bool.eq_false_iff.mpr ‹_›) h
    · simp only [ne_eq, Classical.not_forall, Classical.not_not] at hc
      obtain ⟨pins, busy, rfl⟩ := hc
      have released : ({ s with
          toStation := s.toStation.releaseReset pins busy, pending := rest } : State) = t :=
        Host.Outcome.next.inj hstep
      rw [← released]
      exact release pins busy _ h

/-! ## The tile memory -/

theorem Still.mem {s t : Station} (h : Still s t) : t.mem = s.mem := by
  obtain ⟨mem, -, -, -⟩ := h
  exact mem

theorem Station.wf_assertReset {s : Station} (h : Memory.wf s.mem = true) :
    Memory.wf s.assertReset.mem = true := by
  unfold Station.assertReset
  cases s.mar.burst with
  | none => exact h
  | some b => exact b.work.wf_abandon _ h

theorem Station.wf_releaseReset (pins : BitVec 17) (busy : Bool) {s : Station}
    (h : Memory.wf s.mem = true) : Memory.wf (s.releaseReset pins busy).mem = true := by
  simp only [Station.releaseReset, Station.released]
  split
  · exact h
  · exact Station.wf_assertReset h

theorem Station.complete_mem (r : Requester) (s : Station) :
    (s.complete r).mem = s.mem ∨ ∃ b : Burst, (s.complete r).mem = b.work.write s.mem := by
  unfold Station.complete
  split
  · next b _ =>
    split
    · exact .inr ⟨b, (still_decideGrant _).mem.trans (still_requesterDone _ _).mem⟩
    · exact .inl rfl
  · exact .inl rfl

theorem Station.wf_complete (r : Requester) {s : Station} (h : Memory.wf s.mem = true) :
    Memory.wf (s.complete r).mem = true := by
  rcases s.complete_mem r with same | ⟨b, written⟩
  · rwa [same]
  · rw [written]
    exact b.work.wf_write h

/-- The operations that write the memory are the pin reset and the completions; the others leave it. -/
theorem Operation.wf_mem {c : Instr} {f : Station → Station} (op : Operation c f) {s : Station}
    (h : Memory.wf s.mem = true) : Memory.wf (f s).mem = true := by
  have still : ∀ t, Still s t → Memory.wf t.mem = true := fun t ht => by rwa [ht.mem]
  cases op with
  | assertReset => exact Station.wf_assertReset h
  | completion r => exact Station.wf_complete _ h
  | busIdle => exact h
  | arbitration others => exact still _ (still_arbitrate others s)
  | message k e => exact still _ (still_message (still_standsOf k) k (decideOf k) e s)
  | unknown code e => exact still _ (still_unknownMessage code e s)
  | pulse src => exact still _ (still_pulseFrom src s)
  | namedPulse due src => exact still _ (still_namedPulse _ _ s)
  | blankingEnd => exact still _ (still_blankingEnd s)
  | segmentTaken => exact still _ (still_segmentTaken s)
  | refreshExpiry => exact still _ (still_refreshExpiry s)
  | requestAtIdle r => exact still _ (still_requestAtIdle r s)

/-- Settles O59: only a burst's end and the pin reset write the memory, and both keep its canonical form. -/
theorem memoryStaysCanonical : Obligations.MemoryStaysCanonical := fun _ _ =>
  step_keeps (P := fun s => Memory.wf s.mem = true) (fun pins busy _ => Station.wf_releaseReset pins busy)
    (fun _ _ _ op _ => op.wf_mem) (fun _ _ => id)

end Sys2Proof.Machine
end

section
/-! PROOF. The invariants of a live station block by block, and the change of one block that keeps them. -/

namespace Sys2Proof.Machine

/-! ## What is set aside (R7, R100) -/

def SetAside.entries : SetAside → Nat
  | .apply _ => 1
  | _ => 0

def SetAside.pixels : SetAside → Nat
  | .apply k => k.paint.stored
  | _ => 0

def SetAside.reads : SetAside → Nat
  | .read _ => 1
  | _ => 0

/-- What is set aside for the message in hand. -/
def Tbi.aside (t : Tbi) : SetAside :=
  match t.receiving with
  | some r => r.aside
  | none => .nothing

theorem Tbi.aside_of_receiving {t : Tbi} {r : Receiving} (h : t.receiving = some r) : t.aside = r.aside := by
  simp [Tbi.aside, h]

theorem Tbi.aside_of_none {t : Tbi} (h : t.receiving = none) : t.aside = .nothing := by
  simp [Tbi.aside, h]

theorem Tbi.aside_congr {t u : Tbi} (h : u.receiving = t.receiving) : u.aside = t.aside := by
  simp [Tbi.aside, h]

theorem Station.asideEntries_eq (s : Station) : s.asideEntries = s.tbi.aside.entries := by
  unfold Station.asideEntries Tbi.aside
  cases s.tbi.receiving <;> rfl

theorem Station.asidePixels_eq (s : Station) : s.asidePixels = s.tbi.aside.pixels := by
  unfold Station.asidePixels Tbi.aside
  cases s.tbi.receiving <;> rfl

theorem Station.asideReads_eq (s : Station) : s.asideReads = s.tbi.aside.reads := by
  unfold Station.asideReads Tbi.aside
  cases s.tbi.receiving <;> rfl

/-! ## The invariants of a block -/

/-- The queues keep room for what is set aside, and only a MEMBER sets aside (R7, R99, R159). -/
structure Station.Room (s : Station) (a : SetAside) : Prop where
  entries : s.inq.length + a.entries ≤ 32
  pixels : storedPixels s.inq + a.pixels ≤ 4096
  reads : s.rbe.length + a.reads ≤ 4
  member : a ≠ .nothing → s.mbr.state = .member

/-- At most one entry is offered or sent, and only while the station sends or does not contend (R11). -/
structure Tbi.Offering (t : Tbi) : Prop where
  one : t.queue.countP (fun e => e.status != .waiting) ≤ 1
  sent : t.sending = none → ∀ e ∈ t.queue, e.status ≠ .sending
  contends : t.contending = true → t.sending = none

/-- The membership unit's counts stay in their ranges (R31, R39). -/
structure Mbr.Bounded (m : Mbr) : Prop where
  retries : m.retryCount < 16
  wait : m.joinWait ≤ 4
  watches : ∀ e ∈ m.roster, e.watch ≤ 24
  stations : m.roster.length = 32

/-- The marks are those of a burst's targets, and a RELEASING buffer is marked (R51). -/
def Buffers.Marked (k : Buffers) (x : Option Burst) : Prop :=
  ∀ b : Buf, ((k.get b).inFlight = true ↔ ∃ y, x = some y ∧ b ∈ y.work.targets) ∧
    ((k.get b).state = .releasing → (k.get b).inFlight = true)

def Ftc.ReadyRequired (t : Ftc) : Prop :=
  ∀ r ∈ t.records, setWithin r.readyStations r.requiredStations = true

/-- A SCAN burst of the current refresh. -/
def Burst.scans (b : Burst) : Bool := b.work.requester == .scan && !b.dropped

/-- The FIFO keeps room for the segment of a SCAN burst in flight (R129). -/
def FifoFits (c : Scn) (x : Option Burst) : Prop :=
  c.fifo.length + (if x.any Burst.scans then 1 else 0) ≤ 8

def Scn.PanelFits (c : Scn) : Prop :=
  (c.phase = .idle → c.panel = .black) ∧ (c.phase = .blanking ∨ c.phase = .ended → c.panel = .blanking)

def Mar.HistoryFits (a : Mar) : Prop := a.history.Nodup ∧ ∀ r : Requester, r ∈ a.history

/-- No duty and no frame work. -/
structure Station.Idle (s : Station) : Prop where
  duty : s.mbr.dutyHolder = none
  held : s.mbr.holderRemoved = false
  records : s.ftc.records = []
  inq : s.inq = []
  fie : s.fie = []
  rbe : s.rbe = []

/-- The invariants of a live station but for the init list's, each of the fewest blocks. -/
structure Station.Whole (s : Station) : Prop where
  memory : Memory.wf s.mem = true
  room : s.Room s.tbi.aside
  streak : s.tbi.voidStreak < 32
  offering : s.tbi.Offering
  membership : s.mbr.Bounded
  idle : s.mbr.state ≠ .member → s.Idle
  debt : s.mar.debt ≤ 8
  history : s.mar.HistoryFits
  fifo : FifoFits s.scn s.mar.burst
  marks : s.ftc.buffers.Marked s.mar.burst
  sets : s.ftc.ReadyRequired
  panel : s.scn.PanelFits

theorem Station.scanUnderWay_eq (s : Station) : s.scanUnderWay = s.mar.burst.any Burst.scans := by
  unfold Station.scanUnderWay
  cases s.mar.burst <;> rfl

theorem Station.Sound.whole {s : Station} (h : s.Sound) (live : s.resetAsserted = false) : s.Whole where
  memory := h.memory
  room := {
    entries := s.asideEntries_eq ▸ h.bounded.entries
    pixels := s.asidePixels_eq ▸ h.bounded.pixels
    reads := s.asideReads_eq ▸ h.bounded.reads
    member := fun ha => Decidable.byContradiction fun hs => by
      obtain ⟨-, -, -, -, -, -, nothing⟩ := h.nonMember hs
      cases hr : s.tbi.receiving with
      | none => exact ha (Tbi.aside_of_none hr)
      | some r => exact ha ((Tbi.aside_of_receiving hr).trans (nothing r hr)) }
  streak := h.bounded.streak
  offering := by
    obtain ⟨one, sent, contends⟩ := h.oneOffer live
    exact ⟨one, sent, contends⟩
  membership := ⟨h.bounded.retries, h.bounded.wait, h.bounded.watches, h.bounded.stations⟩
  idle := fun hs => by
    obtain ⟨duty, held, records, inq, fie, rbe, -⟩ := h.nonMember hs
    exact ⟨duty, held, records, inq, fie, rbe⟩
  debt := h.bounded.debt
  history := h.history
  fifo := by
    have fifo := h.bounded.fifo
    rwa [s.scanUnderWay_eq] at fifo
  marks := h.marks live
  sets := h.sets
  panel := h.panel live

theorem Station.Whole.sound {s : Station} (h : s.Whole) (list : s.InitListFits) : s.Sound where
  memory := h.memory
  bounded := {
    entries := s.asideEntries_eq.symm ▸ h.room.entries
    pixels := s.asidePixels_eq.symm ▸ h.room.pixels
    reads := s.asideReads_eq.symm ▸ h.room.reads
    debt := h.debt
    fifo := by
      rw [s.scanUnderWay_eq]
      exact h.fifo
    streak := h.streak
    retries := h.membership.retries
    wait := h.membership.wait
    watches := h.membership.watches
    stations := h.membership.stations }
  history := h.history
  marks := fun _ => h.marks
  initList := list
  nonMember := fun hs =>
    have idle := h.idle hs
    ⟨idle.duty, idle.held, idle.records, idle.inq, idle.fie, idle.rbe, fun r hr =>
      Decidable.byContradiction fun ha =>
        hs (h.room.member (by rwa [Tbi.aside_of_receiving hr]))⟩
  oneOffer := fun _ => ⟨h.offering.one, h.offering.sent, h.offering.contends⟩
  sets := h.sets
  panel := fun _ => h.panel

theorem Station.Room.nothing {s : Station} {a : SetAside} (h : s.Room a) : s.Room .nothing where
  entries := Nat.le_trans (Nat.add_le_add_left (Nat.zero_le _) _) h.entries
  pixels := Nat.le_trans (Nat.add_le_add_left (Nat.zero_le _) _) h.pixels
  reads := Nat.le_trans (Nat.add_le_add_left (Nat.zero_le _) _) h.reads
  member := fun hn => absurd rfl hn

/-! ## Moves of a block that keep its invariants -/

/-- A move of the bus interface: what is set aside stays or is given back. -/
structure Tbi.Moves (t u : Tbi) : Prop where
  aside : u.aside = t.aside ∨ u.aside = .nothing
  streak : t.voidStreak < 32 → u.voidStreak < 32
  offering : t.Offering → u.Offering

/-- A move of the membership unit that does not leave MEMBER. -/
structure Mbr.Moves (m n : Mbr) : Prop where
  bounded : m.Bounded → n.Bounded
  outside : n.state ≠ .member → m.state ≠ .member
  duty : n.state ≠ .member → m.dutyHolder = none ∧ m.holderRemoved = false →
    n.dutyHolder = none ∧ n.holderRemoved = false

/-- A move of the frame table that opens no record: marks stay, and only a marked buffer starts RELEASING. -/
structure Ftc.Moves (t u : Ftc) : Prop where
  mark : ∀ b, (u.buffers.get b).inFlight = (t.buffers.get b).inFlight
  releasing : ∀ b, (u.buffers.get b).state = .releasing →
    (u.buffers.get b).inFlight = true ∨ (t.buffers.get b).state = .releasing
  sets : t.ReadyRequired → u.ReadyRequired
  records : t.records = [] → u.records = []

section
variable {s : Station}

theorem Station.Whole.onTbi {f : Tbi → Tbi} (h : s.Whole) (hm : s.tbi.Moves (f s.tbi)) : (s.onTbi f).Whole where
  memory := h.memory
  room := by
    rcases hm.aside with same | given
    · rw [Station.onTbi_tbi, same]
      exact ⟨h.room.entries, h.room.pixels, h.room.reads, h.room.member⟩
    · rw [Station.onTbi_tbi, given]
      have room := h.room.nothing
      exact ⟨room.entries, room.pixels, room.reads, room.member⟩
  streak := hm.streak h.streak
  offering := hm.offering h.offering
  membership := h.membership
  idle := fun hs =>
    have idle := h.idle hs
    ⟨idle.duty, idle.held, idle.records, idle.inq, idle.fie, idle.rbe⟩
  debt := h.debt
  history := h.history
  fifo := h.fifo
  marks := h.marks
  sets := h.sets
  panel := h.panel

theorem Station.Whole.onMbr {f : Mbr → Mbr} (h : s.Whole) (hm : s.mbr.Moves (f s.mbr)) : (s.onMbr f).Whole where
  memory := h.memory
  room := ⟨h.room.entries, h.room.pixels, h.room.reads, fun ha =>
    Decidable.byContradiction fun hs => hm.outside hs (h.room.member ha)⟩
  streak := h.streak
  offering := h.offering
  membership := hm.bounded h.membership
  idle := fun hs =>
    have idle := h.idle (hm.outside hs)
    have duty := hm.duty hs ⟨idle.duty, idle.held⟩
    ⟨duty.1, duty.2, idle.records, idle.inq, idle.fie, idle.rbe⟩
  debt := h.debt
  history := h.history
  fifo := h.fifo
  marks := h.marks
  sets := h.sets
  panel := h.panel

theorem Buffers.Marked.moves {t u : Ftc} {x : Option Burst} (h : t.buffers.Marked x) (hm : t.Moves u) :
    u.buffers.Marked x := fun b => by
  obtain ⟨marked, releasing⟩ := h b
  refine ⟨by rwa [hm.mark], fun hs => ?_⟩
  rcases hm.releasing b hs with set | before
  · exact set
  · rw [hm.mark]
    exact releasing before

theorem Station.Whole.onFtc {f : Ftc → Ftc} (h : s.Whole) (hm : s.ftc.Moves (f s.ftc)) : (s.onFtc f).Whole where
  memory := h.memory
  room := ⟨h.room.entries, h.room.pixels, h.room.reads, h.room.member⟩
  streak := h.streak
  offering := h.offering
  membership := h.membership
  idle := fun hs =>
    have idle := h.idle hs
    ⟨idle.duty, idle.held, hm.records idle.records, idle.inq, idle.fie, idle.rbe⟩
  debt := h.debt
  history := h.history
  fifo := h.fifo
  marks := h.marks.moves hm
  sets := hm.sets h.sets
  panel := h.panel

theorem Station.Whole.onStu (f : Stu → Stu) (h : s.Whole) : (s.onStu f).Whole where
  memory := h.memory
  room := ⟨h.room.entries, h.room.pixels, h.room.reads, h.room.member⟩
  streak := h.streak
  offering := h.offering
  membership := h.membership
  idle := fun hs =>
    have idle := h.idle hs
    ⟨idle.duty, idle.held, idle.records, idle.inq, idle.fie, idle.rbe⟩
  debt := h.debt
  history := h.history
  fifo := h.fifo
  marks := h.marks
  sets := h.sets
  panel := h.panel

theorem Station.Whole.count (c : Counter) (h : s.Whole) : (s.count c).Whole := h.onStu _

theorem Station.Whole.setPendingReport (v : Bool) (h : s.Whole) : (s.setPendingReport v).Whole := h.onStu _

/-- The init list of a MEMBER may be any; no other station has jobs. -/
theorem Station.Whole.onFie {f : List InitJob → List InitJob} (h : s.Whole)
    (hf : s.mbr.state ≠ .member → f s.fie = []) : (s.onFie f).Whole where
  memory := h.memory
  room := ⟨h.room.entries, h.room.pixels, h.room.reads, h.room.member⟩
  streak := h.streak
  offering := h.offering
  membership := h.membership
  idle := fun hs =>
    have idle := h.idle hs
    ⟨idle.duty, idle.held, idle.records, idle.inq, hf hs, idle.rbe⟩
  debt := h.debt
  history := h.history
  fifo := h.fifo
  marks := h.marks
  sets := h.sets
  panel := h.panel

/-- Apply records are finished or moved on, and stay within what the queue held. -/
theorem Station.Whole.onInq {f : List ApplyRecord → List ApplyRecord} (h : s.Whole)
    (entries : (f s.inq).length ≤ s.inq.length) (pixels : storedPixels (f s.inq) ≤ storedPixels s.inq) :
    (s.onInq f).Whole where
  memory := h.memory
  room := ⟨Nat.le_trans (Nat.add_le_add_right entries _) h.room.entries,
    Nat.le_trans (Nat.add_le_add_right pixels _) h.room.pixels, h.room.reads, h.room.member⟩
  streak := h.streak
  offering := h.offering
  membership := h.membership
  idle := fun hs =>
    have idle := h.idle hs
    have none : (f s.inq).length ≤ 0 := by simpa [idle.inq] using entries
    ⟨idle.duty, idle.held, idle.records, List.eq_nil_of_length_eq_zero (Nat.le_zero.mp none), idle.fie,
      idle.rbe⟩
  debt := h.debt
  history := h.history
  fifo := h.fifo
  marks := h.marks
  sets := h.sets
  panel := h.panel

/-- Read records are ended or moved on. -/
theorem Station.Whole.onRbe {f : List ReadRecord → List ReadRecord} (h : s.Whole)
    (reads : (f s.rbe).length ≤ s.rbe.length) : (s.onRbe f).Whole where
  memory := h.memory
  room := ⟨h.room.entries, h.room.pixels, Nat.le_trans (Nat.add_le_add_right reads _) h.room.reads,
    h.room.member⟩
  streak := h.streak
  offering := h.offering
  membership := h.membership
  idle := fun hs =>
    have idle := h.idle hs
    have none : (f s.rbe).length ≤ 0 := by simpa [idle.rbe] using reads
    ⟨idle.duty, idle.held, idle.records, idle.inq, idle.fie,
      List.eq_nil_of_length_eq_zero (Nat.le_zero.mp none)⟩
  debt := h.debt
  history := h.history
  fifo := h.fifo
  marks := h.marks
  sets := h.sets
  panel := h.panel

/-- The arbiter moves with the burst's targets and its claim on the FIFO as they were. -/
theorem Station.Whole.onMar {f : Mar → Mar} (h : s.Whole) (debt : (f s.mar).debt ≤ 8)
    (history : (f s.mar).history = s.mar.history)
    (fifo : FifoFits s.scn s.mar.burst → FifoFits s.scn (f s.mar).burst)
    (targets : (f s.mar).burst.map (·.work.targets) = s.mar.burst.map (·.work.targets)) : (s.onMar f).Whole where
  memory := h.memory
  room := ⟨h.room.entries, h.room.pixels, h.room.reads, h.room.member⟩
  streak := h.streak
  offering := h.offering
  membership := h.membership
  idle := fun hs =>
    have idle := h.idle hs
    ⟨idle.duty, idle.held, idle.records, idle.inq, idle.fie, idle.rbe⟩
  debt := debt
  history := by
    rw [Mar.HistoryFits, Station.onMar_mar, history]
    exact h.history
  fifo := fifo h.fifo
  marks := fun b => by
    obtain ⟨marked, releasing⟩ := h.marks b
    refine ⟨marked.trans ?_, releasing⟩
    have same := congrArg (fun x : Option (List Buf) => ∃ l, x = some l ∧ b ∈ l) targets
    simp only [Option.map_eq_some_iff, Station.onMar_mar, eq_iff_iff] at same ⊢
    constructor
    · rintro ⟨y, hy, hb⟩
      obtain ⟨l, ⟨z, hz, hl⟩, hbl⟩ := same.mpr ⟨_, ⟨y, hy, rfl⟩, hb⟩
      exact ⟨z, hz, hl ▸ hbl⟩
    · rintro ⟨y, hy, hb⟩
      obtain ⟨l, ⟨z, hz, hl⟩, hbl⟩ := same.mp ⟨_, ⟨y, hy, rfl⟩, hb⟩
      exact ⟨z, hz, hl ▸ hbl⟩
  sets := h.sets
  panel := h.panel

/-- The scan engine moves with no longer a FIFO. -/
theorem Station.Whole.onScn {f : Scn → Scn} (h : s.Whole) (fifo : (f s.scn).fifo.length ≤ s.scn.fifo.length)
    (panel : s.scn.PanelFits → (f s.scn).PanelFits) : (s.onScn f).Whole where
  memory := h.memory
  room := ⟨h.room.entries, h.room.pixels, h.room.reads, h.room.member⟩
  streak := h.streak
  offering := h.offering
  membership := h.membership
  idle := fun hs =>
    have idle := h.idle hs
    ⟨idle.duty, idle.held, idle.records, idle.inq, idle.fie, idle.rbe⟩
  debt := h.debt
  history := h.history
  fifo := Nat.le_trans (Nat.add_le_add_right fifo _) h.fifo
  marks := h.marks
  sets := h.sets
  panel := panel h.panel

theorem Station.Whole.member_of_fie {j : InitJob} {js : List InitJob} (h : s.Whole) (hf : s.fie = j :: js) :
    s.mbr.state = .member :=
  Decidable.byContradiction fun hs => by simp [(h.idle hs).fie] at hf

end

end Sys2Proof.Machine
end

section
/-! PROOF. The moves of the bus interface, the membership unit and the frame table keep their invariants, and so
does the frame work made of them (chapters 1 to 6). -/

namespace Sys2Proof.Machine

/-! ## The bus interface -/

section
variable {t : Tbi}

theorem Tbi.Moves.refl (t : Tbi) : t.Moves t := ⟨.inl rfl, id, id⟩

theorem Tbi.Moves.trans {u v : Tbi} (h : t.Moves u) (h' : u.Moves v) : t.Moves v where
  aside := by
    rcases h'.aside with same | given
    · rw [same]
      exact h.aside
    · exact .inr given
  streak := h'.streak ∘ h.streak
  offering := h'.offering ∘ h.offering

/-- Entries that a new queue keeps are the old ones with their statuses, and new ones wait. -/
theorem Tbi.Moves.of_queue {q : List TxEntry}
    (count : q.countP (fun e => e.status != .waiting) ≤ t.queue.countP fun e => e.status != .waiting)
    (sent : ∀ e ∈ q, e.status = .sending → ∃ d ∈ t.queue, d.status = .sending) :
    t.Moves { t with queue := q } where
  aside := .inl rfl
  streak := id
  offering h := {
    one := Nat.le_trans count h.one
    sent := fun hs e he hes => by
      obtain ⟨d, hd, hds⟩ := sent e he hes
      exact h.sent hs d hd hds
    contends := h.contends }

theorem Tbi.moves_push (m : TxMsg) (t : Tbi) : t.Moves (t.push m) := by
  refine .of_queue (by simp) fun e he hs => ?_
  rcases List.mem_append.mp he with old | new
  · exact ⟨e, old, hs⟩
  · simp [List.mem_singleton.mp new] at hs

/-- Entries whose messages alone change. -/
theorem Tbi.moves_map {f : TxEntry → TxEntry} (hf : ∀ e, (f e).status = e.status) (t : Tbi) :
    t.Moves { t with queue := t.queue.map f } := by
  refine .of_queue (by simp [List.countP_map, Function.comp_def, hf]) fun e he hs => ?_
  obtain ⟨d, hd, rfl⟩ := List.mem_map.mp he
  exact ⟨d, hd, (hf d).symm.trans hs⟩

theorem Tbi.moves_filter (p : TxEntry → Bool) (t : Tbi) : t.Moves { t with queue := t.queue.filter p } :=
  .of_queue (List.filter_sublist.countP_le) fun e he hs => ⟨e, (List.mem_filter.mp he).1, hs⟩

theorem Tbi.moves_pushOnce (m : TxMsg) (t : Tbi) : t.Moves (t.pushOnce m) := by
  unfold Tbi.pushOnce
  split
  · exact .refl t
  · exact t.moves_push m

theorem Tbi.moves_heldTick (r : Option Refresh) (t : Tbi) : t.Moves { t with heldTick := r } :=
  ⟨.inl rfl, id, fun h => ⟨h.one, h.sent, h.contends⟩⟩

theorem Tbi.moves_pushTick (r : Refresh) (t : Tbi) : t.Moves (t.pushTick r) := by
  unfold Tbi.pushTick
  split
  · exact t.moves_heldTick _
  · split
    · exact t.moves_map fun e => by split <;> rfl
    · exact t.moves_push _

theorem Tbi.moves_removeWaiting (p : TxMsg → Bool) (t : Tbi) : t.Moves (t.removeWaiting p) :=
  t.moves_filter _

theorem Tbi.moves_enterHeldTick (t : Tbi) : t.Moves t.enterHeldTick := by
  unfold Tbi.enterHeldTick
  split
  · exact (t.moves_push _).trans (Tbi.moves_heldTick none _)
  · exact .refl t

/-- The entry in transmission is over: none is sent, and nothing else is offered. -/
theorem Tbi.Offering.over {q : List TxEntry} (h : t.Offering)
    (count : q.countP (fun e => e.status != .waiting) ≤ t.queue.countP fun e => e.status != .waiting)
    (sent : ∀ e ∈ q, e.status ≠ .sending) : Tbi.Offering { t with queue := q, sending := none } :=
  ⟨Nat.le_trans count h.one, fun _ => sent, fun _ => rfl⟩

theorem Tbi.moves_removeSent (t : Tbi) : t.Moves t.removeSent where
  aside := .inl rfl
  streak := id
  offering h := h.over List.filter_sublist.countP_le fun e he => by
    simpa using (List.mem_filter.mp he).2

theorem Tbi.moves_keepSent (t : Tbi) : t.Moves t.keepSent where
  aside := .inl rfl
  streak := id
  offering h := h.over
    (by
      rw [List.countP_map]
      refine List.countP_mono_left fun e _ he => ?_
      by_cases hs : e.status = .sending <;> simp_all)
    fun e he => by
      obtain ⟨d, -, rfl⟩ := List.mem_map.mp he
      split
      · simp
      · assumption

/-- With no entry in transmission the message sent is over too. -/
theorem Tbi.moves_sendingOver (h : t.inTransmission = none) : t.Moves { t with sending := none } where
  aside := .inl rfl
  streak := id
  offering ho := ho.over (Nat.le_refl _) (by simpa [Tbi.inTransmission] using h)

theorem Tbi.moves_ownStands (t : Tbi) : t.Moves t.ownStands := by
  have reset : t.removeSent.Moves { t.removeSent with voidStreak := 0 } :=
    ⟨.inl rfl, fun _ => Nat.succ_pos 31, fun h => ⟨h.one, h.sent, h.contends⟩⟩
  exact (t.moves_removeSent.trans reset).trans (Tbi.moves_enterHeldTick _)

theorem Tbi.moves_receivingOver (t : Tbi) : t.Moves { t with receiving := none } :=
  ⟨.inr rfl, id, fun h => ⟨h.one, h.sent, h.contends⟩⟩

theorem Tbi.moves_inStep (t : Tbi) : t.Moves { t with inStep := true } :=
  ⟨.inl rfl, id, fun h => ⟨h.one, h.sent, h.contends⟩⟩

theorem Tbi.moves_contendingOver (t : Tbi) : t.Moves { t with contending := false } :=
  ⟨.inl rfl, id, fun h => ⟨h.one, h.sent, fun hc => absurd hc (by simp)⟩⟩

/-- A message is taken in hand with nothing set aside. -/
theorem Tbi.moves_receive {r : Receiving} (h : r.aside = .nothing) (t : Tbi) : t.Moves (t.receive r) :=
  ⟨.inr h, id, fun h => ⟨h.one, h.sent, fun hc => absurd hc (by simp [Tbi.receive])⟩⟩

theorem Tbi.moves_win (m : Message) (t : Tbi) : t.Moves (t.win m) where
  aside := .inl rfl
  streak := id
  offering h := {
    one := by
      refine Nat.le_trans ?_ h.one
      rw [Tbi.win, List.countP_map]
      refine List.countP_mono_left fun e _ he => ?_
      by_cases hs : e.status = .offer <;> simp_all
    sent := fun hs => absurd hs (by simp [Tbi.win])
    contends := fun hc => absurd hc (by simp [Tbi.win]) }

/-- One entry of a queue of waiting entries becomes the offer. -/
theorem countP_offerFirst_le {q : List TxEntry} (c : Nat) (h : ∀ e ∈ q, e.status = .waiting) :
    (offerFirst c q).countP (fun e => e.status != .waiting) ≤ 1 := by
  have waits : ∀ q : List TxEntry, (∀ e ∈ q, e.status = .waiting) →
      q.countP (fun e => e.status != .waiting) = 0 := fun q hq =>
    List.countP_eq_zero.mpr fun e he => by simp [hq e he]
  induction q with
  | nil => simp [offerFirst]
  | cons e q ih =>
    have he := h e List.mem_cons_self
    have hq : ∀ d ∈ q, d.status = .waiting := fun d hd => h d (List.mem_cons_of_mem _ hd)
    unfold offerFirst
    split
    · simp [waits q hq]
    · rw [List.countP_cons]
      simpa [he] using ih hq

theorem mem_offerFirst {c : Nat} {q : List TxEntry} {e : TxEntry} (h : e ∈ offerFirst c q) :
    e ∈ q ∨ e.status = .offer := by
  induction q with
  | nil => exact .inl h
  | cons d q ih =>
    unfold offerFirst at h
    split at h
    · rcases List.mem_cons.mp h with rfl | old
      · exact .inr rfl
      · exact .inl (List.mem_cons_of_mem _ old)
    · rcases List.mem_cons.mp h with rfl | rest
      · exact .inl List.mem_cons_self
      · exact (ih rest).imp_left (List.mem_cons_of_mem _)

theorem Tbi.Offering.chooseOffer (h : t.Offering) (hs : t.sending = none) : t.chooseOffer.Offering := by
  have unsent := h.sent hs
  unfold Tbi.chooseOffer
  split
  · exact h
  · next unoffered =>
    have waits : ∀ e ∈ t.queue, e.status = .waiting := fun e he => by
      have notSent := unsent e he
      have notOffered : e.status ≠ .offer := fun ho => unoffered (List.any_eq_true.mpr ⟨e, he, by simp [ho]⟩)
      cases hst : e.status <;> simp_all
    exact ⟨countP_offerFirst_le _ waits, fun _ e he => by
      rcases mem_offerFirst he with old | offered
      · exact unsent e old
      · simp [offered], h.contends⟩

theorem Tbi.moves_idle (t : Tbi) : t.Moves t.idle := by
  unfold Tbi.idle
  split
  · exact .refl t
  · next quiet =>
    have hs : t.sending = none := by simp_all
    have kept : t.chooseOffer.receiving = t.receiving ∧ t.chooseOffer.voidStreak = t.voidStreak ∧
        t.chooseOffer.sending = none := by
      unfold Tbi.chooseOffer
      split <;> exact ⟨rfl, rfl, hs⟩
    obtain ⟨receiving, streak, sending⟩ := kept
    refine ⟨.inl (Tbi.aside_congr receiving), fun h => streak.symm ▸ h, fun h => ?_⟩
    have chosen := h.chooseOffer hs
    exact ⟨chosen.one, chosen.sent, fun _ => sending⟩

end

/-! ## The membership unit -/

section
variable {m : Mbr}

theorem Mbr.Moves.refl (m : Mbr) : m.Moves m := ⟨id, id, fun _ => id⟩

theorem Mbr.Moves.trans {n o : Mbr} (h : m.Moves n) (h' : n.Moves o) : m.Moves o where
  bounded := h'.bounded ∘ h.bounded
  outside hs := h.outside (h'.outside hs)
  duty hs hd := h'.duty hs (h.duty (h'.outside hs) hd)

/-- A move that keeps the station state and the duty. -/
theorem Mbr.Moves.of_bounded {n : Mbr} (bounded : m.Bounded → n.Bounded) (state : n.state = m.state)
    (duty : n.dutyHolder = m.dutyHolder) (held : n.holderRemoved = m.holderRemoved) : m.Moves n :=
  ⟨bounded, fun h => state ▸ h, fun _ h => ⟨duty.trans h.1, held.trans h.2⟩⟩

theorem Mbr.Bounded.roster (h : m.Bounded) {roster : List RosterEntry}
    (watches : ∀ e ∈ roster, e.watch ≤ 24) (stations : roster.length = 32) :
    Mbr.Bounded { m with roster := roster } :=
  ⟨h.retries, h.wait, watches, stations⟩

theorem Mbr.Bounded.entry (h : m.Bounded) (x : Nat) : (m.entry x).watch ≤ 24 := by
  unfold Mbr.entry
  rw [List.getD_eq_getElem?_getD]
  cases hx : m.roster[x]? with
  | none => exact Nat.zero_le _
  | some e => exact h.watches e (List.mem_of_getElem? hx)

theorem Mbr.Bounded.setEntry (h : m.Bounded) (x : Nat) {e : RosterEntry} (he : e.watch ≤ 24) :
    (m.setEntry x e).Bounded :=
  h.roster (fun d hd => (List.mem_or_eq_of_mem_set hd).elim (h.watches d) fun same => same ▸ he)
    (by simpa using h.stations)

theorem Mbr.Bounded.empty (h : m.Bounded) : Mbr.Bounded { m with roster := Mbr.emptyRoster } :=
  h.roster (fun e he => by simp [(List.mem_replicate.mp he).2, RosterEntry.absent]) (by decide)

theorem Mbr.Bounded.mapRoster (h : m.Bounded) {f : Nat → RosterEntry → RosterEntry}
    (hf : ∀ i e, e.watch ≤ 24 → (f i e).watch ≤ 24) :
    Mbr.Bounded { m with roster := mapRoster f 0 m.roster } := by
  refine h.roster (fun d hd => ?_) ((mapRoster_length ..).trans h.stations)
  obtain ⟨i, hi⟩ := List.getElem?_of_mem hd
  rw [mapRoster_getElem?] at hi
  obtain ⟨e, he, rfl⟩ := Option.map_eq_some_iff.mp hi
  exact hf _ _ (h.watches e (List.mem_of_getElem? he))

theorem Mbr.moves_setEntry (x : Nat) {e : RosterEntry} (he : m.Bounded → e.watch ≤ 24) :
    m.Moves (m.setEntry x e) :=
  .of_bounded (fun h => h.setEntry x (he h)) rfl rfl rfl

theorem Mbr.moves_add (x : Nat) (tile : Option Tile) (m : Mbr) : m.Moves (m.add x tile) :=
  Mbr.moves_setEntry x fun _ => Nat.zero_le _

theorem Mbr.moves_remove (x : Nat) (m : Mbr) : m.Moves (m.remove x) :=
  Mbr.moves_setEntry x fun _ => Nat.zero_le _

theorem Mbr.moves_clearWatch (x : Nat) (m : Mbr) : m.Moves (m.clearWatch x) :=
  Mbr.moves_setEntry x fun _ => Nat.zero_le _

theorem Mbr.moves_lose (x : Nat) (m : Mbr) : m.Moves (m.lose x) where
  bounded h :=
    have removed := (m.moves_remove x).bounded h
    ⟨removed.retries, removed.wait, removed.watches, removed.stations⟩
  outside := id
  duty _ hd := by simp [hd]

theorem Mbr.moves_suspectVoid (m : Mbr) : m.Moves m.suspectVoid := by
  unfold Mbr.suspectVoid
  split
  · exact .of_bounded (fun h => ⟨h.retries, h.wait, h.watches, h.stations⟩) rfl rfl rfl
  · next x _ =>
    refine .of_bounded (fun h => ?_) rfl rfl rfl
    have cleared := (m.moves_clearWatch x).bounded h
    exact ⟨cleared.retries, cleared.wait, cleared.watches, cleared.stations⟩
  · exact .refl m

theorem Mbr.moves_adopt (own sender : Nat) (tile : Tile) (members : StationSet) (m : Mbr) :
    m.Moves (m.adopt own sender tile members) := by
  refine .trans (.of_bounded (fun h => h.mapRoster fun i e _ => ?_) rfl rfl rfl) (Mbr.moves_add _ _ _)
  split <;> exact Nat.zero_le _

theorem raiseWatch_le (own i : Nat) {e : RosterEntry} (h : e.watch ≤ 24) : (raiseWatch own i e).watch ≤ 24 := by
  unfold raiseWatch
  split
  · next raised => exact raised.2.2
  · exact h

/-- The clock of a MEMBER keeps its watches bounded (R39). -/
theorem Mbr.moves_watchPulse (own : Nat) (hs : m.state = .member) : m.Moves (m.watchPulse own) where
  bounded h :=
    have raised := h.mapRoster fun i _ he => raiseWatch_le own i he
    ⟨raised.retries, raised.wait, raised.watches, raised.stations⟩
  outside h := absurd hs h
  duty h := absurd hs h

/-- The own JOIN makes a MEMBER with every watch at 0 (R30). -/
theorem Mbr.moves_admitted (x : Nat) (tile : Option Tile) (m : Mbr) :
    m.Moves { m.add x tile with
      state := .member, roster := (m.add x tile).roster.map fun e => { e with watch := 0 }
      tickWatch := 0, retryCount := 0, joinWait := 0, dutyHolder := none, holderRemoved := false } where
  bounded h := {
    retries := Nat.succ_pos 15
    wait := Nat.zero_le 4
    watches := fun e he => by
      obtain ⟨d, -, rfl⟩ := List.mem_map.mp he
      exact Nat.zero_le 24
    stations := by simpa using ((m.moves_add x tile).bounded h).stations }
  outside h := absurd rfl h
  duty h := absurd rfl h

/-- A station that is no MEMBER takes another state, with its join state cleared. -/
theorem Mbr.moves_restart {st : StationState} {roster : List RosterEntry} (hs : m.state ≠ .member)
    (hr : m.Bounded → Mbr.Bounded { m with roster := roster }) :
    m.Moves { m with state := st, roster := roster, tickWatch := 0, retryCount := 0, joinWait := 0 } where
  bounded h := ⟨Nat.succ_pos 15, Nat.zero_le 4, (hr h).watches, (hr h).stations⟩
  outside _ := hs
  duty _ := id

end

/-! ## The frame table -/

section
variable {t : Ftc}

theorem Ftc.Moves.refl (t : Ftc) : t.Moves t := ⟨fun _ => rfl, fun _ => .inr, id, id⟩

theorem Ftc.Moves.trans {u v : Ftc} (h : t.Moves u) (h' : u.Moves v) : t.Moves v where
  mark b := (h'.mark b).trans (h.mark b)
  releasing b hs := by
    rcases h'.releasing b hs with set | before
    · exact .inl set
    · rw [h'.mark]
      exact h.releasing b before
  sets := h'.sets ∘ h.sets
  records := h'.records ∘ h.records

/-- The records of a table are old ones, with ready stations still among the required ones. -/
theorem Ftc.Moves.of_records {u : Ftc} (buffers : u.buffers = t.buffers)
    (records : ∀ x ∈ u.records, ∃ r ∈ t.records,
      setWithin r.readyStations r.requiredStations = true → setWithin x.readyStations x.requiredStations = true) :
    t.Moves u where
  mark b := by rw [buffers]
  releasing b hs := .inr (by rwa [← buffers])
  sets h x hx := by
    obtain ⟨r, hr, within⟩ := records x hx
    exact within (h r hr)
  records h := List.eq_nil_iff_forall_not_mem.mpr fun x hx => by
    obtain ⟨r, hr, -⟩ := records x hx
    simp [h] at hr

theorem Ftc.Moves.of_map {u : Ftc} {f : FrameRecord → FrameRecord} (buffers : u.buffers = t.buffers)
    (records : u.records = t.records.map f)
    (hf : ∀ r, setWithin r.readyStations r.requiredStations = true →
      setWithin (f r).readyStations (f r).requiredStations = true) : t.Moves u :=
  .of_records buffers fun x hx => by
    rw [records] at hx
    obtain ⟨r, hr, rfl⟩ := List.mem_map.mp hx
    exact ⟨r, hr, hf r⟩

/-- The fields beside the records and the buffers move freely. -/
theorem Ftc.Moves.of_same {u : Ftc} (buffers : u.buffers = t.buffers) (records : u.records = t.records) :
    t.Moves u :=
  .of_records buffers fun x hx => ⟨x, records ▸ hx, id⟩

theorem Ftc.moves_onRecord (n : FrameNo) {f : FrameRecord → FrameRecord}
    (hf : ∀ r, setWithin r.readyStations r.requiredStations = true →
      setWithin (f r).readyStations (f r).requiredStations = true) (t : Ftc) : t.Moves (t.onRecord n f) :=
  .of_map rfl rfl fun r h => by
    split
    · exact hf r h
    · exact h

theorem Ftc.moves_setState (n : FrameNo) (st : FrameState) (t : Ftc) : t.Moves (t.setState n st) :=
  t.moves_onRecord n (by exact fun _ => id)

theorem Ftc.moves_pinUp (n : FrameNo) (t : Ftc) : t.Moves (t.pinUp n) := t.moves_onRecord n (by exact fun _ => id)

theorem Ftc.moves_release (b : Buf) (t : Ftc) : t.Moves (t.release b) where
  mark c := by
    simp only [Ftc.release, Ftc.onBuffer, Buffers.get_set]
    split
    · next same => rw [same, BufDesc.release_inFlight]
    · rfl
  releasing c hs := by
    simp only [Ftc.release, Ftc.onBuffer, Buffers.get_set] at hs ⊢
    split at hs
    · next same =>
      rw [if_pos same]
      simp only [BufDesc.release] at hs ⊢
      split at hs
      · exact .inl ‹_›
      · exact absurd hs (by simp)
    · exact .inr hs
  sets := id
  records := id

theorem Ftc.moves_dropRecord (n : FrameNo) (t : Ftc) : t.Moves (t.dropRecord n) := by
  unfold Ftc.dropRecord
  split
  · exact .refl t
  · next r _ =>
    exact (t.moves_release r.buffer).trans
      (.of_records rfl fun x hx => ⟨x, (List.mem_filter.mp hx).1, id⟩)

theorem Ftc.moves_pinDown (n : FrameNo) (t : Ftc) : t.Moves (t.pinDown n) := by
  have fewer : t.Moves (t.onRecord n fun r => { r with pins := r.pins - 1 }) :=
    t.moves_onRecord n (by exact fun _ => id)
  unfold Ftc.pinDown
  dsimp only
  split
  · split
    · exact fewer.trans (Ftc.moves_dropRecord n _)
    · exact fewer
  · exact fewer

theorem setWithin_iff {w : Nat} (a b : BitVec w) : setWithin a b = true ↔ a &&& b = a := by
  rw [setWithin, beq_iff_eq]
  constructor
  all_goals
    intro h
    apply BitVec.eq_of_getLsbD_eq
    intro i hi
    have bit := congrArg (fun v => v.getLsbD i) h
    simp only [BitVec.getLsbD_and, BitVec.getLsbD_not, hi, decide_true, Bool.true_and,
      BitVec.ofNat_eq_ofNat, BitVec.getLsbD_zero] at bit ⊢
    cases ha : a.getLsbD i <;> cases hb : b.getLsbD i <;> simp_all

theorem Ftc.moves_prune (x : Nat) (t : Ftc) : t.Moves (t.prune x) :=
  .of_map rfl rfl fun r h => by
    simp only [setWithin_iff] at h ⊢
    calc r.readyStations &&& ~~~stationBit x &&& (r.requiredStations &&& ~~~stationBit x)
      _ = (r.readyStations &&& r.requiredStations) &&& ~~~stationBit x := by
        apply BitVec.eq_of_getLsbD_eq
        intro i hi
        simp only [BitVec.getLsbD_and]
        grind
      _ = r.readyStations &&& ~~~stationBit x := by rw [h]

theorem Ftc.moves_replaceFront (t : Ftc) : t.Moves t.replaceFront := by
  have retired : t.Moves (match t.records.find? (fun r => r.state == .shown) with
      | some r => if 0 < r.pins then t.setState r.frame .retiring else t.dropRecord r.frame
      | none => t) := by
    split
    · split
      · exact t.moves_setState _ _
      · exact t.moves_dropRecord _
    · exact .refl t
  unfold Ftc.replaceFront
  dsimp only
  split
  · exact retired.trans (Ftc.moves_release _ _)
  · exact retired

theorem Ftc.moves_show (t : Ftc) : t.Moves t.show_ := by
  unfold Ftc.show_
  split
  · split
    · exact t.moves_replaceFront.trans (Ftc.moves_onRecord _ (by exact fun _ => id) _)
    · exact .refl t
  · exact .refl t

theorem Ftc.moves_slip (r : Refresh) (t : Ftc) : t.Moves (t.slip r) :=
  .of_map rfl rfl fun r h => by
    split <;> exact h

theorem FrameRecord.hearReady_within (x : Nat) (own : Bool) {r : FrameRecord}
    (h : setWithin r.readyStations r.requiredStations = true) :
    setWithin (r.hearReady x own).readyStations (r.hearReady x own).requiredStations = true := by
  simp only [FrameRecord.hearReady, setWithin_iff] at h ⊢
  split
  · next required =>
    apply BitVec.eq_of_getLsbD_eq
    intro i hi
    have bit := congrArg (fun v => v.getLsbD i) h
    by_cases hx : i = x
    · subst hx
      simp [required]
    · have apart : (stationBit x).getLsbD i = false := by
        simp only [stationBit, BitVec.getLsbD_shiftLeft, BitVec.getLsbD_one]
        grind
      simpa [apart] using bit
  · exact h

theorem BufDesc.withdraw_inFlight (shown : Option Buf) (b : Buf) (d : BufDesc) :
    (d.withdraw shown b).inFlight = d.inFlight := by
  unfold BufDesc.withdraw
  (repeat' split) <;> rfl

theorem BufDesc.withdraw_releasing {shown : Option Buf} {b : Buf} {d : BufDesc}
    (h : (d.withdraw shown b).state = .releasing) : d.inFlight = true ∨ d.state = .releasing := by
  have marked (h : d.release.state = .releasing) : d.inFlight = true := by
    simp only [BufDesc.release] at h
    split at h
    · assumption
    · exact absurd h (by simp)
  unfold BufDesc.withdraw at h
  split at h
  · exact absurd h (by simp)
  · split at h
    · exact .inl (marked h)
    · split at h
      · exact .inl (marked h)
      · exact .inr h

theorem Ftc.moves_withdraw (t : Ftc) : t.Moves t.withdraw where
  mark b := by cases b <;> exact BufDesc.withdraw_inFlight _ _ _
  releasing b hs := by
    cases b <;> exact (BufDesc.withdraw_releasing hs).imp_left (BufDesc.withdraw_inFlight _ _ _).trans
  sets _ := fun r hr => absurd hr List.not_mem_nil
  records _ := rfl

end

end Sys2Proof.Machine
end

section
/-! PROOF. The frame work, the membership unit and the pulse keep the invariants of a live station. -/

namespace Sys2Proof.Machine

section
variable {s : Station}

/-! ## Frames and jobs (chapters 3, 4 and 6) -/

theorem Station.Whole.queueReady (n : FrameNo) (h : s.Whole) : (s.queueReady n).Whole := by
  unfold Station.queueReady
  split
  · split
    · exact h.onTbi (Tbi.moves_push _ _)
    · exact h
  · exact h

theorem Station.Whole.beginCopy (h : s.Whole) : s.beginCopy.Whole := by
  unfold Station.beginCopy
  split
  · next hf =>
    split
    · exact Station.Whole.onFtc (h.onFie fun hs => absurd (h.member_of_fie hf) hs) (Ftc.moves_pinUp _ _)
    · exact h
  · exact h

theorem Station.Whole.wakeCopy (n : FrameNo) (h : s.Whole) : (s.wakeCopy n).Whole := by
  unfold Station.wakeCopy
  split
  · split
    · exact h.beginCopy
    · exact h
  · exact h

theorem Station.Whole.drain (n : FrameNo) (h : s.Whole) : (s.drain n).Whole :=
  ((h.onFtc (Ftc.moves_setState n .drained _)).queueReady n).wakeCopy n

theorem Station.Whole.applySeal (n : FrameNo) (h : s.Whole) : (s.applySeal n).Whole := by
  unfold Station.applySeal
  split
  · split
    · split
      · exact h.onFtc (Ftc.moves_setState _ _ _)
      · exact h.drain n
    · exact h
  · exact h

theorem Station.Whole.initDone (n : FrameNo) (h : s.Whole) : (s.initDone n).Whole := by
  unfold Station.initDone
  split
  · split
    · split
      · exact h.onFtc (Ftc.moves_setState _ _ _)
      · split
        · exact h.onFtc (Ftc.moves_setState _ _ _)
        · exact h.drain n
    · exact h
  · exact h

theorem Station.Whole.pendingDown (n : FrameNo) (h : s.Whole) : (s.pendingDown n).Whole := by
  have lower : (s.onFtc (Ftc.onRecord n fun r => { r with pending := r.pending - 1 })).Whole :=
    h.onFtc (Ftc.moves_onRecord n (by exact fun _ => id) _)
  unfold Station.pendingDown
  dsimp only
  split
  · split
    · exact lower.drain n
    · exact lower
  · exact lower

theorem Station.Whole.activateJob (h : s.Whole) : s.activateJob.Whole := by
  unfold Station.activateJob
  split
  · next hf =>
    have list (js : List InitJob) : (s.onFie fun _ => js).Whole :=
      h.onFie fun hs => absurd (h.member_of_fie hf) hs
    split
    · split
      · exact list _
      · split
        · split
          · exact h.beginCopy
          · exact list _
        · exact list _
    · exact h
  · exact h

theorem Station.Whole.completeJob (h : s.Whole) : s.completeJob.Whole := by
  unfold Station.completeJob
  split
  · next j _ hf =>
    have unpinned : (if j.work = .copy then s.onFtc (Ftc.pinDown (j.frame - 1)) else s).Whole := by
      split
      · exact h.onFtc (Ftc.moves_pinDown _ _)
      · exact h
    have member : (if j.work = .copy then s.onFtc (Ftc.pinDown (j.frame - 1)) else s).mbr.state = .member := by
      split <;> exact h.member_of_fie hf
    exact ((unpinned.onFie fun hs => absurd member hs).initDone _).activateJob
  · exact h

theorem Station.Whole.addJob (n : FrameNo) (w : InitWork) (b : Buf) (h : s.Whole)
    (hs : s.mbr.state = .member) : (s.addJob n w b).Whole :=
  Station.Whole.activateJob (h.onFie fun out => absurd hs out)

theorem Station.Whole.takeInit (n : FrameNo) (m : InitMode) (c : Pixel) (b : Buf) (h : s.Whole)
    (hs : s.mbr.state = .member) : (s.takeInit n m c b).Whole := by
  unfold Station.takeInit
  split
  · exact h.addJob _ _ _ hs
  · split
    · exact h.addJob _ _ _ hs
    · exact (h.count .seedMissing).addJob _ _ _ hs
  · exact h.initDone n

/-- A MEMBER binds a buffer and opens a record whose barrier nobody has joined (R56). -/
theorem Station.Whole.bindRecord {b : Buf} {x : FrameRecord} {n : FrameNo} (f0 : Option FrameNo) (h : s.Whole)
    (hs : s.mbr.state = .member) (hx : x.readyStations = 0) :
    (s.onFtc fun t =>
      { t.onBuffer b (fun d => { d with state := .bound, frame := some n }) with
        records := t.records ++ [x], f0 := f0 }).Whole where
  memory := h.memory
  room := ⟨h.room.entries, h.room.pixels, h.room.reads, h.room.member⟩
  streak := h.streak
  offering := h.offering
  membership := h.membership
  idle := fun out => absurd hs out
  debt := h.debt
  history := h.history
  fifo := h.fifo
  marks := fun c => by
    obtain ⟨marked, releasing⟩ := h.marks c
    simp only [Station.onFtc_ftc, Ftc.onBuffer, Buffers.get_set]
    split
    · next same =>
      subst same
      exact ⟨marked, fun bound => absurd bound (by simp)⟩
    · exact ⟨marked, releasing⟩
  sets := fun r hr => by
    rcases List.mem_append.mp hr with old | new
    · exact h.sets r old
    · simp [List.mem_singleton.mp new, hx, setWithin]
  panel := h.panel

theorem Station.Whole.openRecord (n : FrameNo) (m : InitMode) (c : Option Pixel) (q : PartySet) (h : s.Whole)
    (hs : s.mbr.state = .member) : (s.openRecord n m c q).Whole := by
  unfold Station.openRecord
  split
  · exact h
  · exact (h.bindRecord _ hs rfl).takeInit _ _ _ _ hs

theorem Station.Whole.closeRecord (n : FrameNo) (x : Nat) (h : s.Whole) : (s.closeRecord n x).Whole :=
  Station.Whole.applySeal n (h.onFtc (Ftc.moves_onRecord n (by exact fun _ => id) _))

theorem Station.Whole.applySeals (l : List FrameNo) (h : s.Whole) :
    (l.foldl (fun s n => s.applySeal n) s).Whole := by
  induction l generalizing s with
  | nil => exact h
  | cons n l ih => exact ih (h.applySeal n)

theorem FrameRecord.dropSource_within (p : Nat) {r : FrameRecord}
    (h : setWithin r.readyStations r.requiredStations = true) :
    setWithin (r.dropSource p).readyStations (r.dropSource p).requiredStations = true := by
  unfold FrameRecord.dropSource
  split <;> exact h

theorem Station.Whole.dropSource (p : Nat) (h : s.Whole) : (s.dropSource p).Whole := by
  unfold Station.dropSource
  split
  · exact Station.Whole.applySeals _ (h.onFtc (.of_map rfl rfl fun _ => FrameRecord.dropSource_within p))
  · exact h

theorem Station.Whole.commit (r : Refresh) (late : Bool) (h : s.Whole) : (s.commit r late).Whole := by
  unfold Station.commit
  split
  · exact h
  · next x _ =>
    split
    · have committed := h.onFtc (Ftc.moves_onRecord (f := fun y : FrameRecord =>
        { y with state := .committed, showRefresh := some r }) x.frame (fun _ => id) s.ftc)
      refine Station.Whole.queueReady _ ?_
      split
      · exact committed.count .lateShow
      · exact committed
    · exact h

theorem Station.Whole.acceptTick (r : Refresh) (h : s.Whole) : (s.acceptTick r).Whole := by
  unfold Station.acceptTick
  split
  · exact h.commit _ _
  · split
    · exact h.commit _ _
    · exact ((h.onFtc (Ftc.moves_slip r _)).count .countSlip).commit _ _

theorem Station.Whole.stallPulse (h : s.Whole) : s.stallPulse.Whole := by
  have watched : (s.onFtc fun t =>
      { t with records := t.records.map (FrameRecord.stallPulse s.stallLimit) }).Whole :=
    h.onFtc (.of_map rfl rfl fun r hr => by
      unfold FrameRecord.stallPulse
      split <;> exact hr)
  unfold Station.stallPulse
  dsimp only
  split
  · exact (watched.onFtc (Ftc.moves_onRecord _ (by exact fun _ => id) _)).count .stall
  · exact watched

theorem Station.Whole.ftcPulse (h : s.Whole) : s.ftcPulse.Whole := by
  have advanced : (s.onFtc fun t => { t with refresh := t.refresh + 1 }).Whole := h.onFtc (.of_same rfl rfl)
  unfold Station.ftcPulse
  refine Station.Whole.stallPulse ?_
  split
  · exact advanced.onFtc (Ftc.moves_show _)
  · exact advanced

/-! ## The membership unit (chapter 2) -/

theorem Station.Whole.reject (h : s.Whole) (hs : s.mbr.state ≠ .member) : s.reject.Whole :=
  (h.onMbr (Mbr.moves_restart hs Mbr.Bounded.empty)).onTbi (Tbi.moves_removeWaiting _ _)

theorem Station.Whole.joinVoid (h : s.Whole) : s.joinVoid.Whole := by
  unfold Station.joinVoid
  split
  · next joining =>
    have out : s.mbr.state ≠ .member := by simp [joining]
    split
    · next below =>
      exact h.onMbr (.of_bounded (fun hb => ⟨below, Nat.le_refl 4, hb.watches, hb.stations⟩) rfl rfl rfl)
    · exact h.reject out
  · exact h

theorem Station.Whole.preCheck (h : s.Whole) : s.preCheck.Whole := by
  unfold Station.preCheck
  split
  · next joining => exact h.reject (by simp [joining.1])
  · exact h

theorem Station.Whole.tryJoin (h : s.Whole) (hs : s.mbr.state ≠ .member) : s.tryJoin.Whole := by
  unfold Station.tryJoin
  split
  · exact h.reject hs
  · exact h.onTbi (Tbi.moves_pushOnce _ _)

theorem Station.Whole.enterJoining (h : s.Whole) (hs : s.mbr.state ≠ .member) : s.enterJoining.Whole :=
  Station.Whole.tryJoin (h.onMbr (Mbr.moves_restart hs id)) (by simp)

theorem Station.Whole.removeStation (x : Nat) (h : s.Whole) : (s.removeStation x).Whole :=
  (h.onMbr (Mbr.moves_lose x _)).onFtc (Ftc.moves_prune x _)

/-- The fields of the membership unit without a bound move freely. -/
theorem Station.Whole.onOrigin (o : Option SuspectOrigin) (h : s.Whole) :
    (s.onMbr fun m => { m with suspectOrigin := o }).Whole :=
  h.onMbr (.of_bounded (fun hb => ⟨hb.retries, hb.wait, hb.watches, hb.stations⟩) rfl rfl rfl)

theorem Station.Whole.onTickWatch (f : Mbr → Nat) (h : s.Whole) :
    (s.onMbr fun m => { m with tickWatch := f m }).Whole :=
  h.onMbr (.of_bounded (fun hb => ⟨hb.retries, hb.wait, hb.watches, hb.stations⟩) rfl rfl rfl)

theorem Station.Whole.removeSuspect (x : Nat) (h : s.Whole) : (s.removeSuspect x).Whole := by
  have removed := h.onTbi (Tbi.moves_removeWaiting (TxMsg.isSuspectOf x) s.tbi)
  unfold Station.removeSuspect
  dsimp only
  split
  · exact removed
  · exact removed.onOrigin none

theorem Station.Whole.loseStation (x : Nat) (h : s.Whole) : (s.loseStation x).Whole := by
  have removed : (s.onMbr (Mbr.remove x)).Whole := h.onMbr (Mbr.moves_remove x _)
  unfold Station.loseStation
  split
  · split
    · exact (h.removeStation x).removeSuspect x
    · exact h
  · split
    · exact removed.preCheck
    · exact h
  · split
    · exact removed.preCheck
    · exact h
  · exact h
  · exact h

theorem Station.Whole.becomeMember (h : s.Whole) : s.becomeMember.Whole :=
  Station.Whole.onFtc (h.onMbr (Mbr.moves_admitted _ _ _)) (.of_same rfl rfl)

theorem Station.Whole.hearJoin (x : Nat) (tile : Tile) (h : s.Whole) : (s.hearJoin x tile).Whole := by
  have added {u : Station} (hu : u.Whole) : (u.onMbr (Mbr.add x (some tile))).Whole :=
    hu.onMbr (Mbr.moves_add x _ _)
  unfold Station.hearJoin
  split
  · refine added ?_
    split
    · exact h.removeStation x
    · exact h
  · exact (added h).preCheck
  · exact (added h).preCheck
  · exact h
  · exact h

theorem Station.Whole.adoptWall (x : Nat) (tile : Tile) (ms : StationSet) (l : Option FrameNo) (h : s.Whole) :
    (s.adoptWall x tile ms l).Whole :=
  Station.Whole.onFtc (h.onMbr (Mbr.moves_adopt _ _ _ _ _)) (.of_same rfl rfl)

theorem Station.Whole.beaconSlot (r : Refresh) (h : s.Whole) : (s.beaconSlot r).Whole := by
  unfold Station.beaconSlot
  split
  · exact h.onTbi (Tbi.moves_pushOnce _ _)
  · exact h

theorem Station.Whole.listenPulse (h : s.Whole) (hs : s.mbr.state = .listening) : s.listenPulse.Whole := by
  unfold Station.listenPulse
  split
  · exact h.onTickWatch _
  · exact Station.Whole.enterJoining (h.onMbr (.of_bounded Mbr.Bounded.empty rfl rfl rfl)) (by simp [hs])

theorem Station.Whole.joinPulse (h : s.Whole) (hs : s.mbr.state = .joining) : s.joinPulse.Whole := by
  have waited {n : Nat} (hn : s.mbr.Bounded → n ≤ 4) : (s.onMbr fun m => { m with joinWait := n }).Whole :=
    h.onMbr (.of_bounded (fun hb => ⟨hb.retries, hn hb, hb.watches, hb.stations⟩) rfl rfl rfl)
  unfold Station.joinPulse
  split
  · exact h
  · split
    · exact Station.Whole.tryJoin (waited fun _ => Nat.zero_le 4) (by simp [hs])
    · exact waited (n := s.mbr.joinWait - 1) fun hb => Nat.le_trans (Nat.sub_le _ _) hb.wait

theorem Station.Whole.tickPulse (h : s.Whole) : s.tickPulse.Whole := by
  unfold Station.tickPulse
  split
  · exact h.onTbi (Tbi.moves_pushTick _ _)
  · exact h

theorem Station.Whole.suspectPulse (h : s.Whole) : s.suspectPulse.Whole := by
  unfold Station.suspectPulse
  split
  · exact h
  · split
    · exact (h.onTbi (Tbi.moves_push _ _)).onOrigin _
    · exact h

theorem Station.Whole.memberPulse (h : s.Whole) (hs : s.mbr.state = .member) : s.memberPulse.Whole := by
  unfold Station.memberPulse
  refine Station.Whole.suspectPulse (Station.Whole.tickPulse ?_)
  split
  · exact (h.count .tickStarved).onMbr (Mbr.moves_watchPulse _ hs)
  · exact h.onMbr (Mbr.moves_watchPulse _ hs)

theorem Station.Whole.mbrPulse (h : s.Whole) : s.mbrPulse.Whole := by
  unfold Station.mbrPulse
  split
  · exact h.listenPulse ‹_›
  · exact h.joinPulse ‹_›
  · exact h.memberPulse ‹_›
  · exact h
  · exact h

end

end Sys2Proof.Machine
end

section
/-! PROOF. Messages, from the decision to the verdict, keep the invariants of a live station. -/

namespace Sys2Proof.Machine

section
variable {s : Station}

/-! ## A withdrawal (R21, R48, R71) -/

theorem Burst.withdraw_targets (b : Burst) : b.withdraw.work.targets = b.work.targets := by
  obtain ⟨w, d⟩ := b
  cases w <;> rfl

theorem Burst.withdraw_scans (b : Burst) : b.withdraw.scans = b.scans := by
  obtain ⟨w, d⟩ := b
  cases w <;> simp [Burst.withdraw, Burst.scans, BurstWork.requester]

theorem Buffers.Marked.map_burst {k : Buffers} {x : Option Burst} {g : Burst → Burst} (h : k.Marked x)
    (hg : ∀ b, (g b).work.targets = b.work.targets) : k.Marked (x.map g) := fun b => by
  obtain ⟨marked, releasing⟩ := h b
  refine ⟨marked.trans ?_, releasing⟩
  cases x <;> simp [hg]

/-- With no message in hand a withdrawal leaves nothing set aside, no frame work and no duty. -/
theorem Station.Whole.withdraw (dest : StationState) (h : s.Whole) (hr : s.tbi.receiving = none) :
    (s.withdraw dest).Whole where
  memory := h.memory
  room := by
    rw [show (s.withdraw dest).tbi.aside = .nothing from Tbi.aside_of_none hr]
    exact ⟨Nat.zero_le 32, Nat.zero_le 4096, Nat.zero_le 4, fun hn => absurd rfl hn⟩
  streak := Nat.succ_pos 31
  offering := ⟨Nat.zero_le 1, fun _ _ he => absurd he List.not_mem_nil, fun _ => rfl⟩
  membership := ⟨Nat.succ_pos 15, Nat.zero_le 4,
    fun e he => by simp [(List.mem_replicate.mp he).2, RosterEntry.absent], List.length_replicate⟩
  idle := fun _ => ⟨rfl, rfl, rfl, rfl, rfl, rfl⟩
  debt := h.debt
  history := h.history
  fifo := by
    have fifo := h.fifo
    unfold FifoFits at fifo ⊢
    cases hb : s.mar.burst <;>
      simpa [Station.withdraw, hb, Burst.withdraw_scans] using fifo
  marks := (h.marks.moves s.ftc.moves_withdraw).map_burst Burst.withdraw_targets
  sets := fun r hr => absurd hr List.not_mem_nil
  panel := h.panel

/-! ## The own void (R17, R18, R19) -/

theorem Station.Whole.ownVoidKind (m : TxMsg) (h : s.Whole) : (s.ownVoidKind m).Whole := by
  have kept := h.onTbi s.tbi.moves_keepSent
  have removed := h.onTbi s.tbi.moves_removeSent
  unfold Station.ownVoidKind
  split
  · exact kept
  · exact kept
  · exact kept
  · exact kept
  · exact removed
  · exact removed
  · exact removed.onMbr (Mbr.moves_suspectVoid _)
  · exact removed.joinVoid

theorem Station.ownVoidKind_receiving (m : TxMsg) (s : Station) :
    (s.ownVoidKind m).tbi.receiving = s.tbi.receiving := by
  unfold Station.ownVoidKind
  split <;> try rfl
  unfold Station.joinVoid
  (repeat' split) <;> rfl

theorem Tbi.enterHeldTick_receiving (t : Tbi) : t.enterHeldTick.receiving = t.receiving := by
  rw [Tbi.enterHeldTick_eq]

theorem Station.Whole.streaked (damage : Bool) (h : s.Whole) (hr : s.tbi.receiving = none) :
    (s.streak damage).Whole := by
  unfold Station.streak
  split
  · split
    · next below =>
      exact h.onTbi ⟨.inl rfl, fun _ => below, fun ho => ⟨ho.one, ho.sent, ho.contends⟩⟩
    · exact h.withdraw _ hr
  · exact h

theorem Station.Whole.ownVoid (damage : Bool) (h : s.Whole) (hr : s.tbi.receiving = none) :
    (s.ownVoid damage).Whole := by
  have counted := h.count .ownVoided
  unfold Station.ownVoid
  dsimp only
  split
  · next e _ =>
    exact ((counted.ownVoidKind e.msg).onTbi (Tbi.moves_enterHeldTick _)).streaked damage
      ((Tbi.enterHeldTick_receiving _).trans ((Station.ownVoidKind_receiving _ _).trans hr))
  · next none =>
    have ended : ((s.count .ownVoided).onTbi fun t => { t with sending := .none }).Whole :=
      counted.onTbi (Tbi.moves_sendingOver none)
    exact (ended.onTbi (Tbi.moves_enterHeldTick _)).streaked damage
      ((Tbi.enterHeldTick_receiving _).trans hr)

/-! ## The decision (R6, R7) -/

/-- Taking in hand a message for which the queues keep room. -/
theorem Station.Whole.receive {r : Receiving} (h : s.Whole) (room : s.Room r.aside) :
    (s.onTbi (Tbi.receive r)).Whole where
  memory := h.memory
  room := by
    rw [Station.onTbi_tbi, show (s.tbi.receive r).aside = r.aside from rfl]
    exact ⟨room.entries, room.pixels, room.reads, room.member⟩
  streak := h.streak
  offering := ⟨h.offering.one, h.offering.sent, fun hc => absurd hc (by simp [Tbi.receive])⟩
  membership := h.membership
  idle := fun hs =>
    have idle := h.idle hs
    ⟨idle.duty, idle.held, idle.records, idle.inq, idle.fie, idle.rbe⟩
  debt := h.debt
  history := h.history
  fifo := h.fifo
  marks := h.marks
  sets := h.sets
  panel := h.panel

/-- A decision of a MEMBER sets aside only what its queues have room for. -/
def Decide.KeepsRoom (d : Decide) : Prop :=
  ∀ (x : Nat) (m : Message) (s : Station) (a : SetAside), s.mbr.state = .member → s.Room .nothing →
    d x m s = .pass a → s.Room a

theorem Decide.keepsRoom_of_nothing {d : Decide} (h : ∀ x m s a, d x m s = .pass a → a = .nothing) :
    d.KeepsRoom := fun x m s a _ room hd => h x m s a hd ▸ room

theorem keepsRoom_passes : Decide.KeepsRoom passes :=
  Decide.keepsRoom_of_nothing fun _ _ _ _ hd => by simpa [passes, eq_comm] using hd

theorem keepsRoom_decideSuspect : Decide.KeepsRoom decideSuspect :=
  Decide.keepsRoom_of_nothing fun x m s a hd => by
    unfold decideSuspect at hd
    (repeat' split at hd) <;> simp_all

theorem keepsRoom_decideJoin : Decide.KeepsRoom decideJoin :=
  Decide.keepsRoom_of_nothing fun x m s a hd => by
    unfold decideJoin at hd
    (repeat' split at hd) <;> simp_all

theorem keepsRoom_decideOpen : Decide.KeepsRoom decideOpen :=
  Decide.keepsRoom_of_nothing fun x m s a hd => by
    unfold decideOpen at hd
    (repeat' split at hd) <;> simp_all

theorem keepsRoom_decideClose : Decide.KeepsRoom decideClose :=
  Decide.keepsRoom_of_nothing fun x m s a hd => by
    unfold decideClose at hd
    (repeat' split at hd) <;> simp_all

theorem Station.limits_le (s : Station) (n : FrameNo) : (s.limits n).1 ≤ 32 ∧ (s.limits n).2 ≤ 4096 := by
  unfold Station.limits
  (repeat' split) <;> decide

/-- A write passed with a record is within the limits on entries and pixels (R99). -/
theorem room_of_decideWrite {x : Nat} {w : WriteHead} {count : Option Nat} {paint : Rect → Paint}
    {a : SetAside} (hs : s.mbr.state = .member) (room : s.Room .nothing)
    (hd : decideWrite x w count paint s = .pass a) : s.Room a := by
  obtain ⟨most, most'⟩ := s.limits_le w.frame
  unfold decideWrite at hd
  generalize s.limits w.frame = limits at most most' hd
  obtain ⟨entries, pixels⟩ := limits
  dsimp only at most most' hd
  (repeat' split at hd) <;> simp only [Decision.pass.injEq, reduceCtorEq] at hd <;> subst hd
  all_goals first
    | exact room
    | exact ⟨by simp only [SetAside.entries]; omega, by simp only [SetAside.pixels]; omega, room.reads,
        fun _ => hs⟩

theorem keepsRoom_decideFill : Decide.KeepsRoom decideFill := fun x m s a hs room hd => by
  unfold decideFill at hd
  split at hd
  · exact room_of_decideWrite hs room hd
  · simp only [Decision.pass.injEq] at hd
    exact hd ▸ room

theorem keepsRoom_decideRun : Decide.KeepsRoom decideRun := fun x m s a hs room hd => by
  unfold decideRun at hd
  split at hd
  · exact room_of_decideWrite hs room hd
  · simp only [Decision.pass.injEq] at hd
    exact hd ▸ room

theorem keepsRoom_decideReadRequest : Decide.KeepsRoom decideReadRequest := fun x m s a hs room hd => by
  unfold decideReadRequest at hd
  (repeat' split at hd) <;> simp only [Decision.pass.injEq, reduceCtorEq] at hd <;> subst hd
  all_goals first
    | exact room
    | exact ⟨room.entries, room.pixels, by simp only [SetAside.reads]; omega, fun _ => hs⟩

theorem keepsRoom_decideOf (k : Kind) : (decideOf k).KeepsRoom := by
  cases k
  case suspect => exact keepsRoom_decideSuspect
  case join => exact keepsRoom_decideJoin
  case openFrame => exact keepsRoom_decideOpen
  case closeFrame => exact keepsRoom_decideClose
  case fill => exact keepsRoom_decideFill
  case run => exact keepsRoom_decideRun
  case readRequest => exact keepsRoom_decideReadRequest
  all_goals exact keepsRoom_passes

theorem Station.Whole.hearDamaged (code : Byte) (x : Heard) (h : s.Whole) : (s.hearDamaged code x).Whole :=
  h.onTbi (Tbi.moves_receive rfl _)

theorem Station.Whole.hearUndamaged {d : Decide} (hd : d.KeepsRoom) (code : Byte) (x : Nat) (m : Message)
    (h : s.Whole) : (s.hearUndamaged code x m d).Whole := by
  unfold Station.hearUndamaged
  dsimp only
  split
  · next decides =>
    split
    · exact Station.Whole.count _ (h.onTbi (Tbi.moves_receive rfl _))
    · next a pass => exact h.receive (hd x m s a decides.2 h.room.nothing pass)
  · exact h.onTbi (Tbi.moves_receive rfl _)

theorem Station.Whole.hear {d : Decide} (hd : d.KeepsRoom) (k : Kind) (x : Heard) (h : s.Whole) :
    (s.hear k d x).Whole := by
  unfold Station.hear
  split
  · split
    · exact h.hearDamaged _ _
    · exact h.hearUndamaged hd _ _ _
  · exact h

theorem Station.Whole.hearUnknown (code : Byte) (x : Heard) (h : s.Whole) : (s.hearUnknown code x).Whole := by
  unfold Station.hearUnknown
  split
  · exact h.hearDamaged _ _
  · exact h

/-! ## Standing messages -/

/-- A write set aside is kept. -/
theorem Station.Whole.keepWrite {k : ApplyRecord} (h : s.Whole) (hr : s.tbi.receiving = none)
    (room : s.Room (.apply k)) : (s.keepWrite k).Whole := by
  have member : s.mbr.state = .member := room.member (by simp)
  have kept : (s.onInq (· ++ [k])).Whole := {
    memory := h.memory
    room := by
      rw [show (s.onInq (· ++ [k])).tbi.aside = .nothing from Tbi.aside_of_none hr]
      refine ⟨?_, ?_, room.reads, fun hn => absurd rfl hn⟩
      · simpa [SetAside.entries] using room.entries
      · simpa [SetAside.pixels, storedPixels] using room.pixels
    streak := h.streak
    offering := h.offering
    membership := h.membership
    idle := fun hs => absurd member hs
    debt := h.debt
    history := h.history
    fifo := h.fifo
    marks := h.marks
    sets := h.sets
    panel := h.panel }
  exact kept.onFtc (Ftc.moves_onRecord _ (by exact fun _ => id) _)

/-- A read record set aside is kept. -/
theorem Station.Whole.keepRead {k : ReadRecord} (h : s.Whole) (hr : s.tbi.receiving = none)
    (room : s.Room (.read k)) : (s.onRbe (· ++ [k])).Whole where
  memory := h.memory
  room := by
    rw [show (s.onRbe (· ++ [k])).tbi.aside = .nothing from Tbi.aside_of_none hr]
    refine ⟨room.entries, room.pixels, ?_, fun hn => absurd rfl hn⟩
    simpa [SetAside.reads] using room.reads
  streak := h.streak
  offering := h.offering
  membership := h.membership
  idle := fun hs => absurd (room.member (by simp)) hs
  debt := h.debt
  history := h.history
  fifo := h.fifo
  marks := h.marks
  sets := h.sets
  panel := h.panel

theorem Station.Whole.endRead (q : Nat) (tag : Byte) (h : s.Whole) : (s.endRead q tag).Whole := by
  unfold Station.endRead
  split
  · exact (h.onRbe (List.length_filter_le _ _)).onFtc (Ftc.moves_pinDown _ _)
  · exact h

theorem Station.Whole.takeQuery (q : Nat) (clear : Bool) (h : s.Whole) : (s.takeQuery q clear).Whole := by
  unfold Station.takeQuery
  split
  · exact h.onTbi (Tbi.moves_map (fun e => by split <;> rfl) _)
  · exact (h.onTbi (Tbi.moves_push _ _)).setPendingReport true

theorem Burst.cancelRead_targets (q : Nat) (tag : Byte) (b : Burst) :
    (b.cancelRead q tag).work.targets = b.work.targets := by
  unfold Burst.cancelRead
  (repeat' split) <;> rfl

theorem Burst.cancelRead_scans (q : Nat) (tag : Byte) (b : Burst) : (b.cancelRead q tag).scans = b.scans := by
  obtain ⟨w, d⟩ := b
  cases w <;> simp only [Burst.cancelRead]
  split <;> simp [Burst.scans, BurstWork.requester]

/-- The burst in flight loses its work, or keeps it, without a new claim on the FIFO. -/
theorem Station.Whole.onBurst {g : Burst → Burst} (h : s.Whole)
    (targets : ∀ b, (g b).work.targets = b.work.targets) (scans : ∀ b, (g b).scans = true → b.scans = true) :
    (s.onMar fun a => { a with burst := a.burst.map g }).Whole := by
  refine h.onMar h.debt rfl (fun fifo => ?_) (by cases s.mar.burst <;> simp [targets])
  unfold FifoFits at fifo ⊢
  cases hb : s.mar.burst with
  | none => simpa [hb] using fifo
  | some b =>
    have fewer := scans b
    cases hg : (g b).scans <;> simp_all
    omega

/-- What stands in a kind keeps the invariants, with no message in hand and room for what was set aside. -/
def Stands.KeepsWhole (st : Stands) : Prop :=
  ∀ (r : Receiving) (s : Station), s.Whole → s.tbi.receiving = none → s.Room r.aside → (st r s).Whole

theorem keepsWhole_tickStands : Stands.KeepsWhole tickStands := fun r s h _ _ => by
  have watched := h.onTickWatch fun _ => 0
  unfold tickStands
  split
  · split
    · split
      · exact (watched.beaconSlot _).acceptTick _
      · exact h
    · exact watched.onFtc (.of_same rfl rfl)
    · exact h.onFtc (.of_same rfl rfl)
    · exact h
    · exact h
  · exact h

theorem keepsWhole_suspectStands : Stands.KeepsWhole suspectStands := fun r s h _ _ => by
  unfold suspectStands
  split
  · refine Station.Whole.loseStation _ ?_
    split
    · exact h.onOrigin none
    · exact h
  · exact h

theorem keepsWhole_joinStands : Stands.KeepsWhole joinStands := fun r s h _ _ => by
  unfold joinStands
  split
  · split
    · exact h.becomeMember
    · exact h.hearJoin _ _
  · exact h

theorem keepsWhole_leaveStands : Stands.KeepsWhole leaveStands := fun r s h hr _ => by
  unfold leaveStands
  split
  · split
    · exact h.withdraw _ hr
    · exact h.loseStation _
  · exact h

theorem keepsWhole_wallResetStands : Stands.KeepsWhole wallResetStands := fun r s h hr _ => by
  unfold wallResetStands
  split
  · exact h.withdraw _ hr
  · exact h

theorem keepsWhole_orderLeaveStands : Stands.KeepsWhole orderLeaveStands := fun r s h _ _ => by
  unfold orderLeaveStands
  split
  · split
    · exact h.onTbi (Tbi.moves_pushOnce _ _)
    · exact h
  · exact h

theorem keepsWhole_orderRejoinStands : Stands.KeepsWhole orderRejoinStands := fun r s h _ _ => by
  unfold orderRejoinStands
  split
  · split
    · next out =>
      refine h.onMbr (Mbr.moves_restart ?_ Mbr.Bounded.empty)
      rcases out.2 with hs | hs <;> simp [hs]
    · exact h
  · exact h

theorem keepsWhole_dropStands : Stands.KeepsWhole dropStands := fun r s h _ _ => by
  unfold dropStands
  split
  · split
    · exact h.dropSource _
    · exact h
  · exact h

theorem keepsWhole_readyStands : Stands.KeepsWhole readyStands := fun r s h _ _ => by
  unfold readyStands
  split
  · split
    · exact h.onFtc (Ftc.moves_onRecord _ (fun _ => FrameRecord.hearReady_within _ _) _)
    · exact h
  · exact h

theorem keepsWhole_beaconStands : Stands.KeepsWhole beaconStands := fun r s h _ _ => by
  unfold beaconStands
  split
  · split
    · split
      · exact h.onMbr (Mbr.moves_add _ _ _)
      · exact h
    · next hs => exact (h.adoptWall _ _ _ _).enterJoining (by simp [Station.adoptWall, Mbr.adopt, Mbr.add, Mbr.setEntry, hs])
    · exact (h.adoptWall _ _ _ _).preCheck
    · exact h
    · exact h
  · exact h

theorem keepsWhole_readReplyStands : Stands.KeepsWhole readReplyStands := fun r s h _ _ => by
  unfold readReplyStands
  split
  · split
    · have confirmed {f : ReadRecord → ReadRecord} : (s.onRbe (List.map f)).Whole :=
        h.onRbe (Nat.le_of_eq (List.length_map _))
      dsimp only
      split
      · exact confirmed.endRead _ _
      · exact confirmed
    · exact h
  · exact h

theorem keepsWhole_statusReportStands : Stands.KeepsWhole statusReportStands := fun r s h _ _ => by
  unfold statusReportStands
  split
  · exact h.setPendingReport false
  · exact h

theorem keepsWhole_openStands : Stands.KeepsWhole openStands := fun r s h _ _ => by
  have opened (n : FrameNo) : (s.onFtc fun t => { t with lastOpened := some n }).Whole :=
    h.onFtc (.of_same rfl rfl)
  unfold openStands
  split
  · dsimp only
    split
    · next hs =>
      split
      · exact (opened _).openRecord _ _ _ _ hs
      · exact opened _
    · exact opened _
  · exact h

theorem keepsWhole_closeStands : Stands.KeepsWhole closeStands := fun r s h _ _ => by
  unfold closeStands
  split
  · split
    · exact h.closeRecord _ _
    · exact h
  · exact h

theorem keepsWhole_fillStands : Stands.KeepsWhole fillStands := fun r s h hr room => by
  unfold fillStands
  split
  · next ha => exact h.keepWrite hr (ha ▸ room)
  · exact h

theorem keepsWhole_readRequestStands : Stands.KeepsWhole readRequestStands := fun r s h hr room => by
  unfold readRequestStands
  split
  · next ha =>
    split
    · split
      · exact (h.keepRead hr (ha ▸ room)).onFtc (Ftc.moves_pinUp _ _)
      · exact h
    · exact h
  · exact h

theorem keepsWhole_readCancelStands : Stands.KeepsWhole readCancelStands := fun r s h _ _ => by
  unfold readCancelStands
  split
  · split
    · exact ((h.endRead _ _).onTbi (Tbi.moves_removeWaiting _ _)).onBurst (Burst.cancelRead_targets _ _)
        fun b hb => (Burst.cancelRead_scans _ _ b).symm.trans hb
    · exact h
  · exact h

theorem keepsWhole_statusQueryStands : Stands.KeepsWhole statusQueryStands := fun r s h _ _ => by
  unfold statusQueryStands
  split
  · split
    · exact h.takeQuery _ _
    · exact h
  · exact h

theorem keepsWhole_standsOf (k : Kind) : (standsOf k).KeepsWhole := by
  cases k with
  | tick => exact keepsWhole_tickStands
  | suspect => exact keepsWhole_suspectStands
  | join => exact keepsWhole_joinStands
  | leave => exact keepsWhole_leaveStands
  | wallReset => exact keepsWhole_wallResetStands
  | orderLeave => exact keepsWhole_orderLeaveStands
  | orderRejoin => exact keepsWhole_orderRejoinStands
  | drop => exact keepsWhole_dropStands
  | ready => exact keepsWhole_readyStands
  | beacon => exact keepsWhole_beaconStands
  | readReply => exact keepsWhole_readReplyStands
  | statusReport => exact keepsWhole_statusReportStands
  | openFrame => exact keepsWhole_openStands
  | closeFrame => exact keepsWhole_closeStands
  | fill => exact keepsWhole_fillStands
  | run => exact keepsWhole_fillStands
  | readRequest => exact keepsWhole_readRequestStands
  | readCancel => exact keepsWhole_readCancelStands
  | statusQuery => exact keepsWhole_statusQueryStands

/-! ## The verdict (R8) -/

theorem Station.Whole.closeReceiving (r : Receiving) (h : s.Whole) : (s.closeReceiving r).Whole := by
  unfold Station.closeReceiving
  refine Station.Whole.onTbi ?_ (Tbi.moves_receivingOver _)
  split
  · exact h.count .damageMarked
  · exact h

theorem Station.Room.of_same {u : Station} {a : SetAside} (h : s.Room a) (inq : u.inq = s.inq)
    (rbe : u.rbe = s.rbe) (mbr : u.mbr = s.mbr) : u.Room a :=
  ⟨inq ▸ h.entries, inq ▸ h.pixels, rbe ▸ h.reads, fun ha => mbr ▸ h.member ha⟩

theorem Station.closeReceiving_same (r : Receiving) (s : Station) :
    (s.closeReceiving r).inq = s.inq ∧ (s.closeReceiving r).rbe = s.rbe ∧
      (s.closeReceiving r).mbr = s.mbr ∧ (s.closeReceiving r).tbi.receiving = none := by
  unfold Station.closeReceiving
  split <;> exact ⟨rfl, rfl, rfl, rfl⟩

theorem Station.Whole.verdict {st : Stands} (hst : st.KeepsWhole) (code : Byte) (v : Slots) (h : s.Whole) :
    (s.verdict code st v).Whole := by
  unfold Station.verdict
  split
  · exact h.onTbi (Tbi.moves_inStep _)
  · next r hr =>
    split
    · obtain ⟨inq, rbe, mbr, ended⟩ := s.closeReceiving_same r
      have closed := h.closeReceiving r
      have room : (s.closeReceiving r).Room r.aside :=
        (Tbi.aside_of_receiving hr ▸ h.room).of_same inq rbe mbr
      dsimp only
      split
      · split
        · have streakless : (s.closeReceiving r).tbi.ownStands.receiving = none :=
            (Tbi.enterHeldTick_receiving _).trans ended
          exact hst r _ (closed.onTbi (Tbi.moves_ownStands _)) streakless (room.of_same rfl rfl rfl)
        · exact hst r _ closed ended room
      · split
        · exact closed.ownVoid _ ended
        · exact closed
    · exact h

theorem Station.Whole.message (k : Kind) (e : MsgEvent) (h : s.Whole) :
    (s.message k (decideOf k) (standsOf k) e).Whole := by
  have verdict {u : Station} (hu : u.Whole) (v : Slots) : (u.verdict k.code (standsOf k) v).Whole :=
    hu.verdict (keepsWhole_standsOf k) _ v
  unfold Station.message
  split
  · exact h.hear (keepsRoom_decideOf k) _ _
  · exact verdict h _
  · split
    · exact h
    · exact verdict (h.hear (keepsRoom_decideOf k) _ _) _

theorem Station.Whole.unknownMessage (code : Byte) (e : MsgEvent) (h : s.Whole) :
    (s.unknownMessage code e).Whole := by
  have verdict {u : Station} (hu : u.Whole) (v : Slots) : (u.verdict code (fun _ s => s) v).Whole :=
    hu.verdict (fun _ _ hs _ _ => hs) _ v
  unfold Station.unknownMessage
  split
  · exact h.hearUnknown _ _
  · exact verdict h _
  · split
    · exact h
    · exact verdict (h.hearUnknown _ _) _

/-! ## Arbitration (R2, R12) -/

theorem Station.Whole.winArbitration (e : TxEntry) (h : s.Whole) : (s.winArbitration e).Whole := by
  have won := h.onTbi (Tbi.moves_win (s.assemble e.msg) _)
  unfold Station.winArbitration
  dsimp only
  split
  · exact won.onStu _
  · exact won

theorem Station.Whole.arbitrate (others : List Byte) (h : s.Whole) : (s.arbitrate others).Whole := by
  unfold Station.arbitrate
  split
  · split
    · dsimp only
      split
      · exact h.onTbi (Tbi.moves_contendingOver _)
      · exact h.winArbitration _
    · exact h.onTbi (Tbi.moves_contendingOver _)
  · exact h

end

end Sys2Proof.Machine
end

section
/-! PROOF. The arbiter, the pulses and the panel keep the invariants of a live station (chapters 7 and 8). -/

namespace Sys2Proof.Machine

section
variable {s : Station}

/-! ## Grants (R51, R137) -/

theorem mem_moveLast {r q : Requester} {h : List Requester} : q ∈ moveLast r h ↔ q ∈ h ∨ q = r := by
  by_cases hq : q = r <;> simp [moveLast, hq]

theorem moveLast_nodup {r : Requester} {h : List Requester} (nodup : h.Nodup) : (moveLast r h).Nodup := by
  refine List.nodup_append.mpr ⟨nodup.filter _, List.pairwise_singleton _ r, fun q hq x hx => ?_⟩
  rw [List.mem_singleton.mp hx]
  simpa using (List.mem_filter.mp hq).2

/-- A requester forms bursts of its own. -/
theorem Station.requester_of_formBurst {r : Requester} {w : BurstWork} (h : s.formBurst r = some w) :
    w.requester = r := by
  unfold Station.formBurst at h
  cases r <;> dsimp only at h <;> (repeat' split at h) <;>
    simp only [Option.some.injEq, reduceCtorEq] at h <;> subst h <;> rfl

theorem Station.fifo_of_requests_scan (h : s.requests .scan = true) : s.scn.fifo.length < 8 := by
  simp only [Station.requests, Bool.and_eq_true, decide_eq_true_eq] at h
  exact h.2.1.2

/-- A grant at an idle arbiter: the marks of the targets are set, and a SCAN burst finds room in the FIFO. -/
theorem Station.Whole.grant {r : Requester} (h : s.Whole) (idle : s.mar.burst = none)
    (stands : s.requests r = true) : (s.grant r).Whole := by
  unfold Station.grant
  split
  · next w hw =>
    have marks := fun b => Ftc.markAll_get w.targets s.ftc b
    have table : (s.ftc.markAll w.targets).records = s.ftc.records :=
      (congrArg Ftc.records (Ftc.markAll_eq w.targets s.ftc) :)
    exact {
      memory := h.memory
      room := ⟨h.room.entries, h.room.pixels, h.room.reads, h.room.member⟩
      streak := h.streak
      offering := h.offering
      membership := h.membership
      idle := fun hs =>
        have out := h.idle hs
        ⟨out.duty, out.held, by simp [table, out.records], out.inq, out.fie, out.rbe⟩
      debt := h.debt
      history := ⟨moveLast_nodup h.history.1, fun q => mem_moveLast.mpr (.inl (h.history.2 q))⟩
      fifo := by
        have fifo := h.fifo
        simp only [FifoFits, idle, Option.any_none] at fifo ⊢
        by_cases hr : r = .scan
        · have below := Station.fifo_of_requests_scan (hr ▸ stands)
          simp only [Station.onFtc_scn, Station.onMar_scn]
          split <;> omega
        · simpa [Burst.scans, Station.requester_of_formBurst hw, hr] using fifo
      marks := fun b => by
        obtain ⟨marked, releasing⟩ := h.marks b
        have clear : (s.ftc.buffers.get b).inFlight = false := by
          simpa [idle] using marked
        rw [Station.onFtc_ftc, Station.onMar_ftc, marks b]
        constructor
        · by_cases hb : b ∈ w.targets <;> simp [hb, clear]
        · intro hs
          have before : (s.ftc.buffers.get b).state = .releasing := by
            split at hs <;> exact hs
          simp [releasing before] at clear
      sets := fun x hx => h.sets x (by simpa [table] using hx)
      panel := h.panel }
  · exact h

theorem Station.Whole.requestAtIdle (r : Requester) (h : s.Whole) : (s.requestAtIdle r).Whole := by
  unfold Station.requestAtIdle
  split
  · next stands => exact h.grant (Option.isNone_iff_eq_none.mp stands.1) stands.2
  · exact h

theorem Station.foldl_better_requests {r : Requester} (l : List Requester) (best : Option Requester)
    (hb : ∀ q, best = some q → s.requests q = true) (h : l.foldl s.better best = some r) :
    s.requests r = true := by
  induction l generalizing best with
  | nil => exact hb r h
  | cons x l ih =>
    refine ih _ (fun q hq => ?_) h
    unfold Station.better at hq
    split at hq
    · next stands =>
      split at hq
      · exact Option.some.inj hq ▸ stands
      · split at hq
        · exact Option.some.inj hq ▸ stands
        · exact Option.some.inj hq ▸ hb _ rfl
    · exact hb q hq

theorem Station.requests_of_candidate {r : Requester} (h : s.candidate = some r) : s.requests r = true :=
  Station.foldl_better_requests _ none (fun _ hq => absurd hq (by simp)) h

theorem Station.Whole.decideGrant (h : s.Whole) (idle : s.mar.burst = none) : s.decideGrant.Whole := by
  unfold Station.decideGrant
  split
  · next hc => exact h.grant idle (Station.requests_of_candidate hc)
  · exact h

/-! ## Completions (R51, R138) -/

/-- At a burst's end the marks are clear, and a RELEASING buffer is FREE. -/
theorem Station.Whole.endBurst {b : Burst} (h : s.Whole) (hb : s.mar.burst = some b) : (s.endBurst b).Whole := by
  have table : (s.ftc.unmarkAll b.work.targets).records = s.ftc.records :=
    (congrArg Ftc.records (Ftc.unmarkAll_eq b.work.targets s.ftc) :)
  exact {
    memory := b.work.wf_write h.memory
    room := ⟨h.room.entries, h.room.pixels, h.room.reads, h.room.member⟩
    streak := h.streak
    offering := h.offering
    membership := h.membership
    idle := fun hs =>
      have out := h.idle hs
      ⟨out.duty, out.held, by simp [Station.endBurst, table, out.records], out.inq, out.fie, out.rbe⟩
    debt := h.debt
    history := h.history
    fifo := Nat.le_trans (Nat.le_add_right _ _) h.fifo
    marks := fun c => by
      obtain ⟨marked, releasing⟩ := h.marks c
      have cleared : (s.endBurst b).ftc.buffers.get c =
          if c ∈ b.work.targets then (s.ftc.buffers.get c).unmark else s.ftc.buffers.get c :=
        Ftc.unmarkAll_get ..
      simp only [hb, Option.some.injEq, exists_eq_left'] at marked
      rw [cleared]
      by_cases hc : c ∈ b.work.targets
      · rw [if_pos hc]
        refine ⟨by simp [Station.endBurst], fun hs => ?_⟩
        simp only [BufDesc.unmark] at hs
        split at hs
        · exact absurd hs (by simp)
        · exact absurd hs (by assumption)
      · rw [if_neg hc]
        refine ⟨by simp [Station.endBurst, marked, hc], releasing⟩
    sets := fun x hx => h.sets x (by simpa [Station.endBurst, table] using hx)
    panel := h.panel }

/-- A segment enters the FIFO, which kept room for it. -/
theorem Station.Whole.scanDone (b : Buf) (l g : Nat) (dropped : Bool) (h : s.Whole) (idle : s.mar.burst = none)
    (room : dropped = false → s.scn.fifo.length < 8) : (s.scanDone b l g dropped).Whole := by
  unfold Station.scanDone
  split
  · next current =>
    exact {
      memory := h.memory
      room := ⟨h.room.entries, h.room.pixels, h.room.reads, h.room.member⟩
      streak := h.streak
      offering := h.offering
      membership := h.membership
      idle := fun hs =>
        have out := h.idle hs
        ⟨out.duty, out.held, out.records, out.inq, out.fie, out.rbe⟩
      debt := h.debt
      history := h.history
      fifo := by
        have below := room current.1
        simp only [FifoFits, Station.onScn_mar, idle, Station.onScn_scn, List.length_append,
          List.length_singleton, Option.any_none, Bool.false_eq_true, if_false]
        omega
      marks := h.marks
      sets := h.sets
      panel := h.panel }
  · exact h

theorem Station.Whole.mrefDone (h : s.Whole) : s.mrefDone.Whole :=
  h.onMar (Nat.le_trans (Nat.sub_le _ _) h.debt) rfl id rfl

theorem Station.Whole.initBurstDone (n : Nat) (dropped : Bool) (h : s.Whole) :
    (s.initBurstDone n dropped).Whole := by
  unfold Station.initBurstDone
  split
  · exact h
  · split
    · next hf =>
      split
      · exact h.onFie fun hs => absurd (h.member_of_fie hf) hs
      · exact h.completeJob
    · exact h

theorem ApplyRecord.advance_paint {n : Nat} {k k' : ApplyRecord} (h : k.advance n = some k') :
    k'.paint = k.paint := by
  unfold ApplyRecord.advance at h
  (repeat' split at h) <;> simp only [Option.some.injEq, reduceCtorEq] at h <;> subst h <;> rfl

theorem storedPixels_set {q : List ApplyRecord} {i : Nat} {k k' : ApplyRecord} (hk : q[i]? = some k)
    (same : k'.paint = k.paint) : storedPixels (q.set i k') = storedPixels q := by
  unfold storedPixels
  obtain ⟨hi, rfl⟩ := List.getElem?_eq_some_iff.mp hk
  rw [List.map_set, same, ← List.getElem_map (fun r : ApplyRecord => r.paint.stored) (h := by simpa using hi),
    List.set_getElem_self]

theorem storedPixels_eraseIdx_le (q : List ApplyRecord) (i : Nat) :
    storedPixels (q.eraseIdx i) ≤ storedPixels q := by
  unfold storedPixels
  induction q generalizing i with
  | nil => exact Nat.le_refl _
  | cons r q ih =>
    cases i with
    | zero =>
      rw [List.eraseIdx_cons_zero, List.map_cons, List.sum_cons]
      exact Nat.le_add_left _ _
    | succ i =>
      rw [List.eraseIdx_cons_succ, List.map_cons, List.map_cons, List.sum_cons, List.sum_cons]
      exact Nat.add_le_add_left (ih i) _

theorem Station.Whole.applyDone (n slot : Nat) (dropped : Bool) (h : s.Whole) :
    (s.applyDone n slot dropped).Whole := by
  unfold Station.applyDone
  split
  · exact h
  · split
    · next hk =>
      split
      · next hadv =>
        exact h.onInq (Nat.le_of_eq (List.length_set ..))
          (Nat.le_of_eq (storedPixels_set hk (ApplyRecord.advance_paint hadv)))
      · exact Station.Whole.pendingDown _
          (h.onInq (List.eraseIdx_sublist ..).length_le (storedPixels_eraseIdx_le ..))
    · exact h

theorem Station.Whole.readDone (sp : Span) (q : Nat) (tag : Byte) (dropped : Bool) (h : s.Whole) :
    (s.readDone sp q tag dropped).Whole := by
  unfold Station.readDone
  split
  · exact h
  · split
    · exact (h.onTbi (Tbi.moves_push _ _)).onRbe (Nat.le_of_eq (List.length_map _))
    · exact h

theorem Station.Whole.requesterDone {b : Burst} (h : s.Whole) (idle : s.mar.burst = none)
    (room : b.scans = true → s.scn.fifo.length < 8) : (s.requesterDone b).Whole := by
  unfold Station.requesterDone
  split
  · next hw => exact h.scanDone _ _ _ _ idle fun hd => room (by simp [Burst.scans, hw, BurstWork.requester, hd])
  · exact h.mrefDone
  · exact h.applyDone _ _ _
  · exact h.initBurstDone _ _
  · exact h.initBurstDone _ _
  · exact h.readDone _ _ _ _

/-- The burst in flight, which no requester's work touches. -/
theorem Station.requesterDone_burst (b : Burst) (s : Station) :
    (s.requesterDone b).mar.burst = s.mar.burst := by
  unfold Station.requesterDone
  split
  · unfold Station.scanDone
    split <;> rfl
  · rfl
  · unfold Station.applyDone
    (repeat' split) <;> first | rfl | exact congrArg Mar.burst (touches_pendingDown _ _ .mar (by decide))
  · unfold Station.initBurstDone
    (repeat' split) <;> first | rfl | exact congrArg Mar.burst (touches_completeJob _ .mar (by decide))
  · unfold Station.initBurstDone
    (repeat' split) <;> first | rfl | exact congrArg Mar.burst (touches_completeJob _ .mar (by decide))
  · unfold Station.readDone
    (repeat' split) <;> rfl

theorem Station.Whole.complete (r : Requester) (h : s.Whole) : (s.complete r).Whole := by
  unfold Station.complete
  split
  · next b hb =>
    split
    · have ended : (s.endBurst b).mar.burst = none := rfl
      refine Station.Whole.decideGrant (Station.Whole.requesterDone (h.endBurst hb) ended fun scans => ?_)
        ((Station.requesterDone_burst _ _).trans ended)
      have fifo := h.fifo
      simp only [FifoFits, hb, Option.any_some, scans, if_true] at fifo
      exact fifo
    · exact h
  · exact h

theorem Station.Whole.refreshExpiry (h : s.Whole) : s.refreshExpiry.Whole := by
  unfold Station.refreshExpiry
  split
  · next below =>
    have raised : (s.onMar fun a => { a with debt := a.debt + 1 }).Whole := h.onMar below rfl id rfl
    exact raised.onMar raised.debt rfl id rfl
  · exact (h.count .refreshOverrun).onMar h.debt rfl id rfl

/-! ## Pulses and the panel (chapter 8) -/

theorem Burst.endRefresh_targets (b : Burst) : b.endRefresh.work.targets = b.work.targets := by
  obtain ⟨w, d⟩ := b
  cases w <;> rfl

theorem Burst.endRefresh_scans (b : Burst) : b.endRefresh.scans = false := by
  obtain ⟨w, d⟩ := b
  cases w <;> simp [Burst.endRefresh, Burst.scans, BurstWork.requester]

theorem Station.Whole.endRefresh (h : s.Whole) : s.endRefresh.Whole := by
  have emptied : (s.onScn fun c => { c with fifo := [] }).Whole := h.onScn (Nat.zero_le _) id
  exact emptied.onBurst Burst.endRefresh_targets fun b hb => by simp [b.endRefresh_scans] at hb

theorem Station.Whole.beginRefresh (h : s.Whole) : s.beginRefresh.Whole :=
  h.onScn (Nat.le_refl _) fun _ => ⟨fun hp => absurd hp (by simp), fun _ => rfl⟩

theorem Station.Whole.pulse (h : s.Whole) : s.pulse.Whole := h.endRefresh.ftcPulse.mbrPulse.beginRefresh

theorem Station.Whole.wsyncEdge (h : s.Whole) : s.wsyncEdge.Whole :=
  Station.Whole.pulse (h.onScn (Nat.le_refl _) id)

theorem Station.Whole.syncLost (h : s.Whole) : s.syncLost.Whole := by
  unfold Station.syncLost
  split
  · exact h
  · exact Station.Whole.pulse (Station.Whole.count _ (h.onScn (Nat.le_refl _) id))

theorem Station.Whole.freeRunExpiry (h : s.Whole) : s.freeRunExpiry.Whole := by
  unfold Station.freeRunExpiry
  split
  · exact Station.Whole.pulse (h.onScn (Nat.le_refl _) id)
  · exact h

theorem Station.Whole.pulseFrom (src : PulseSource) (h : s.Whole) : (s.pulseFrom src).Whole := by
  cases src with
  | wsyncEdge => exact h.wsyncEdge
  | syncLost => exact h.syncLost
  | freeRunExpiry => exact h.freeRunExpiry

theorem Station.Whole.namedPulse (due : Station → Bool) (src : PulseSource) (h : s.Whole) :
    (s.namedPulse due src).Whole := by
  unfold Station.namedPulse
  split
  · exact h.pulseFrom src
  · exact h

theorem Station.Whole.blankingEnd (h : s.Whole) : s.blankingEnd.Whole := by
  unfold Station.blankingEnd
  split
  · exact h.onScn (Nat.le_refl _) fun _ => ⟨fun hp => absurd hp (by simp), fun hp => absurd hp (by simp)⟩
  · exact h

theorem Station.Whole.showSegment (ps : List Rgb) (h : s.Whole) (active : s.scn.phase = .active) :
    (s.showSegment ps).Whole :=
  h.onScn (Nat.le_refl _) fun _ =>
    ⟨fun hp => absurd hp (by simp [active]), fun hp => absurd hp (by simp [active])⟩

theorem Station.Whole.skipFetch (h : s.Whole) : s.skipFetch.Whole := by
  unfold Station.skipFetch
  split
  · exact h.onScn (Nat.le_refl _) id
  · exact h

theorem Station.Whole.advanceOutput (h : s.Whole) : s.advanceOutput.Whole := by
  unfold Station.advanceOutput
  split
  · exact h.onScn (Nat.le_refl _) id
  · exact h.onScn (Nat.le_refl _) fun _ => ⟨fun hp => absurd hp (by simp), fun _ => rfl⟩

theorem Station.Whole.segmentTaken (h : s.Whole) : s.segmentTaken.Whole := by
  unfold Station.segmentTaken
  split
  · next active =>
    split
    · exact (h.showSegment _ active).skipFetch.advanceOutput
    · next hq =>
      refine Station.Whole.advanceOutput ((h.showSegment _ active).onScn ?_ id)
      simp [Station.showSegment, hq]
    · exact ((h.showSegment _ active).count _).skipFetch.advanceOutput
  · exact h

/-- Time passes for the three timers. -/
theorem Station.Whole.timersRun (n : Nat) (h : s.Whole) : Station.Whole { s.timersRun with free := n } := by
  have run : s.timersRun.Whole :=
    Station.Whole.onMar (h.onScn (Nat.le_refl _) id) h.debt rfl id rfl
  exact ⟨run.memory, ⟨run.room.entries, run.room.pixels, run.room.reads, run.room.member⟩, run.streak,
    run.offering, run.membership, fun hs =>
      have out := run.idle hs
      ⟨out.duty, out.held, out.records, out.inq, out.fie, out.rbe⟩,
    run.debt, run.history, run.fifo, run.marks, run.sets, run.panel⟩

end

end Sys2Proof.Machine
end

section
/-! PROOF. Which blocks the operations on messages, pulses and bursts can touch. -/

namespace Sys2Proof.Machine

section
variable {s t u : Station} {l : List Block}

theorem Touches.tbi (h : Touches l s t) (hl : Block.tbi ∉ l) : t.tbi = s.tbi := h .tbi hl
theorem Touches.mbr (h : Touches l s t) (hl : Block.mbr ∉ l) : t.mbr = s.mbr := h .mbr hl
theorem Touches.ftc (h : Touches l s t) (hl : Block.ftc ∉ l) : t.ftc = s.ftc := h .ftc hl
theorem Touches.inq (h : Touches l s t) (hl : Block.inq ∉ l) : t.inq = s.inq := h .inq hl
theorem Touches.fie (h : Touches l s t) (hl : Block.fie ∉ l) : t.fie = s.fie := h .fie hl
theorem Touches.rbe (h : Touches l s t) (hl : Block.rbe ∉ l) : t.rbe = s.rbe := h .rbe hl
theorem Touches.mar (h : Touches l s t) (hl : Block.mar ∉ l) : t.mar = s.mar := h .mar hl
theorem Touches.scn (h : Touches l s t) (hl : Block.scn ∉ l) : t.scn = s.scn := h .scn hl
theorem Touches.stu (h : Touches l s t) (hl : Block.stu ∉ l) : t.stu = s.stu := h .stu hl
theorem Touches.straps (h : Touches l s t) (hl : Block.straps ∉ l) : t.straps = s.straps := h .straps hl

/-- Two operations on the same blocks after one another. -/
theorem Touches.also {l' : List Block} (h : Touches l s t) (h' : Touches l' t u) (hl : ∀ b ∈ l', b ∈ l) :
    Touches l s u := h.trans (h'.mono hl)

theorem Touches.ite {p : Prop} [Decidable p] (h : Touches l s t) (h' : Touches l s u) :
    Touches l s (if p then t else u) := by
  split
  · exact h
  · exact h'

end

variable (s : Station)

theorem touches_setPendingReport (v : Bool) : Touches [.stu] s (s.setPendingReport v) := touches_onStu _ s

/-! ## Membership -/

theorem touches_reject : Touches [.tbi, .mbr] s s.reject :=
  .step (touches_onMbr _ s) (touches_onTbi _ _) (by decide) (by decide)

theorem touches_joinVoid : Touches [.tbi, .mbr] s s.joinVoid := by
  unfold Station.joinVoid
  exact .ite (.ite ((touches_onMbr _ s).mono (by decide)) (touches_reject s)) (.refl _ _)

theorem touches_preCheck : Touches [.tbi, .mbr] s s.preCheck := by
  unfold Station.preCheck
  exact .ite (touches_reject s) (.refl _ _)

theorem touches_tryJoin : Touches [.tbi, .mbr] s s.tryJoin := by
  unfold Station.tryJoin
  exact .ite (touches_reject s) ((touches_onTbi _ s).mono (by decide))

theorem touches_enterJoining : Touches [.tbi, .mbr] s s.enterJoining :=
  .step (touches_onMbr _ s) (touches_tryJoin _) (by decide) (by decide)

theorem touches_removeStation (x : Nat) : Touches [.mbr, .ftc] s (s.removeStation x) :=
  .step (touches_onMbr _ s) (touches_onFtc _ _) (by decide) (by decide)

theorem touches_removeSuspect (x : Nat) : Touches [.tbi, .mbr] s (s.removeSuspect x) := by
  unfold Station.removeSuspect
  dsimp only
  have removed : Touches [.tbi, .mbr] s (s.onTbi (Tbi.removeWaiting (TxMsg.isSuspectOf x))) :=
    (touches_onTbi _ s).mono (by decide)
  exact .ite removed (removed.also (touches_onMbr _ _) (by decide))

theorem touches_loseStation (x : Nat) : Touches [.tbi, .mbr, .ftc] s (s.loseStation x) := by
  have removed : Touches [.tbi, .mbr] s (s.onMbr (Mbr.remove x)).preCheck :=
    .step (touches_onMbr _ s) (touches_preCheck _) (by decide) (by decide)
  unfold Station.loseStation
  split
  · exact .ite (.step (touches_removeStation s x) (touches_removeSuspect _ x) (by decide) (by decide))
      (.refl _ _)
  · exact .ite (removed.mono (by decide)) (.refl _ _)
  · exact .ite (removed.mono (by decide)) (.refl _ _)
  · exact .refl _ _
  · exact .refl _ _

theorem touches_becomeMember : Touches [.mbr, .ftc] s s.becomeMember :=
  .step (touches_onMbr _ s) (touches_onFtc _ _) (by decide) (by decide)

theorem touches_hearJoin (x : Nat) (tile : Tile) : Touches [.tbi, .mbr, .ftc] s (s.hearJoin x tile) := by
  have added : Touches [.tbi, .mbr] s (s.onMbr (Mbr.add x (some tile))).preCheck :=
    .step (touches_onMbr _ s) (touches_preCheck _) (by decide) (by decide)
  unfold Station.hearJoin
  split
  · refine .step (l₁ := [.mbr, .ftc]) ?_ (touches_onMbr _ _) (by decide) (by decide)
    exact .ite (touches_removeStation s x) (.refl _ _)
  · exact added.mono (by decide)
  · exact added.mono (by decide)
  · exact .refl _ _
  · exact .refl _ _

theorem touches_adoptWall (x : Nat) (tile : Tile) (ms : StationSet) (last : Option FrameNo) :
    Touches [.mbr, .ftc] s (s.adoptWall x tile ms last) :=
  .step (touches_onMbr _ s) (touches_onFtc _ _) (by decide) (by decide)

theorem touches_beaconSlot (r : Refresh) : Touches [.tbi] s (s.beaconSlot r) := by
  unfold Station.beaconSlot
  exact .ite (touches_onTbi _ s) (.refl _ _)

theorem touches_listenPulse : Touches [.tbi, .mbr] s s.listenPulse := by
  unfold Station.listenPulse
  exact .ite ((touches_onMbr _ s).mono (by decide))
    (.step (touches_onMbr _ s) (touches_enterJoining _) (by decide) (by decide))

theorem touches_joinPulse : Touches [.tbi, .mbr] s s.joinPulse := by
  unfold Station.joinPulse
  exact .ite (.refl _ _) (.ite (.step (touches_onMbr _ s) (touches_tryJoin _) (by decide) (by decide))
    ((touches_onMbr _ s).mono (by decide)))

theorem touches_tickPulse : Touches [.tbi] s s.tickPulse := by
  unfold Station.tickPulse
  exact .ite (touches_onTbi _ s) (.refl _ _)

theorem touches_suspectPulse : Touches [.tbi, .mbr] s s.suspectPulse := by
  unfold Station.suspectPulse
  refine .ite (.refl _ _) ?_
  split
  · exact .step (touches_onTbi _ s) (touches_onMbr _ _) (by decide) (by decide)
  · exact .refl _ _

theorem touches_memberPulse : Touches [.tbi, .mbr, .stu] s s.memberPulse := by
  unfold Station.memberPulse
  refine .step (l₁ := [.tbi, .mbr, .stu]) ?_ (touches_suspectPulse _) (by decide) (by decide)
  refine .step (l₁ := [.mbr, .stu]) ?_ (touches_tickPulse _) (by decide) (by decide)
  refine .step (l₁ := [.stu]) ?_ (touches_onMbr _ _) (by decide) (by decide)
  exact .ite (touches_count _ s) (.refl _ _)

theorem touches_mbrPulse : Touches [.tbi, .mbr, .stu] s s.mbrPulse := by
  unfold Station.mbrPulse
  split
  · exact (touches_listenPulse s).mono (by decide)
  · exact (touches_joinPulse s).mono (by decide)
  · exact touches_memberPulse s
  · exact .refl _ _
  · exact .refl _ _

/-! ## Frames -/

theorem touches_acceptTick (r : Refresh) : Touches [.tbi, .ftc, .stu] s (s.acceptTick r) := by
  unfold Station.acceptTick
  refine .ite (touches_commit _ _ s) (.ite (touches_commit _ _ s) ?_)
  exact .step (.step (l := [.ftc, .stu]) (touches_onFtc _ s) (touches_count _ _) (by decide) (by decide))
    (touches_commit _ _ _) (by decide) (by decide)

theorem touches_stallPulse : Touches [.ftc, .stu] s s.stallPulse := by
  have watched : Touches [.ftc, .stu] s (s.onFtc fun t =>
      { t with records := t.records.map (FrameRecord.stallPulse s.stallLimit) }) :=
    (touches_onFtc _ s).mono (by decide)
  unfold Station.stallPulse
  dsimp only
  split
  · exact (watched.also (touches_onFtc _ _) (by decide)).also (touches_count _ _) (by decide)
  · exact watched

theorem touches_ftcPulse : Touches [.ftc, .stu] s s.ftcPulse := by
  unfold Station.ftcPulse
  refine .step (l₁ := [.ftc]) ?_ (touches_stallPulse _) (by decide) (by decide)
  have advanced : Touches [.ftc] s (s.onFtc fun t => { t with refresh := t.refresh + 1 }) := touches_onFtc _ s
  exact .ite (advanced.also (touches_onFtc _ _) (by decide)) advanced

theorem touches_openRecord (n : FrameNo) (m : InitMode) (c : Option Pixel) (q : PartySet) :
    Touches [.tbi, .ftc, .fie, .stu] s (s.openRecord n m c q) := by
  unfold Station.openRecord
  split
  · exact .refl _ _
  · exact .step (touches_onFtc _ s) (touches_takeInit _ _ _ _ _) (by decide) (by decide)

theorem touches_closeRecord (n : FrameNo) (x : Nat) : Touches [.tbi, .ftc, .fie] s (s.closeRecord n x) :=
  .step (touches_onFtc _ s) (touches_applySeal n _) (by decide) (by decide)

theorem touches_applySeals (ns : List FrameNo) :
    Touches [.tbi, .ftc, .fie] s (ns.foldl (fun s n => s.applySeal n) s) := by
  induction ns generalizing s with
  | nil => exact .refl _ _
  | cons n ns ih => exact (touches_applySeal n s).trans (ih _)

theorem touches_dropSource (p : Nat) : Touches [.tbi, .ftc, .fie] s (s.dropSource p) := by
  unfold Station.dropSource
  exact .ite (.step (touches_onFtc _ s) (touches_applySeals _ _) (by decide) (by decide)) (.refl _ _)

/-! ## Queues -/

theorem touches_keepWrite (k : ApplyRecord) : Touches [.inq, .ftc] s (s.keepWrite k) :=
  .step (touches_onInq _ s) (touches_onFtc _ _) (by decide) (by decide)

theorem touches_endRead (q : Nat) (tag : Byte) : Touches [.rbe, .ftc] s (s.endRead q tag) := by
  unfold Station.endRead
  split
  · exact .step (touches_onRbe _ s) (touches_onFtc _ _) (by decide) (by decide)
  · exact .refl _ _

theorem touches_takeQuery (q : Nat) (clear : Bool) : Touches [.tbi, .stu] s (s.takeQuery q clear) := by
  unfold Station.takeQuery
  exact .ite ((touches_onTbi _ s).mono (by decide))
    (.step (touches_onTbi _ s) (touches_setPendingReport _ _) (by decide) (by decide))

/-! ## The bus -/

theorem touches_hearDamaged (code : Byte) (h : Heard) : Touches [.tbi] s (s.hearDamaged code h) :=
  touches_onTbi _ s

theorem touches_hearUndamaged (code : Byte) (x : Nat) (m : Message) (d : Decide) :
    Touches [.tbi, .stu] s (s.hearUndamaged code x m d) := by
  unfold Station.hearUndamaged
  dsimp only
  refine .ite ?_ ((touches_onTbi _ s).mono (by decide))
  split
  · exact .step (touches_onTbi _ s) (touches_count _ _) (by decide) (by decide)
  · exact (touches_onTbi _ s).mono (by decide)

theorem touches_hear (k : Kind) (d : Decide) (h : Heard) : Touches [.tbi, .stu] s (s.hear k d h) := by
  unfold Station.hear
  refine .ite ?_ (.refl _ _)
  split
  · exact (touches_hearDamaged s _ _).mono (by decide)
  · exact touches_hearUndamaged s _ _ _ _

theorem touches_hearUnknown (code : Byte) (h : Heard) : Touches [.tbi] s (s.hearUnknown code h) := by
  unfold Station.hearUnknown
  exact .ite (touches_hearDamaged s _ _) (.refl _ _)

theorem touches_closeReceiving (r : Receiving) : Touches [.tbi, .stu] s (s.closeReceiving r) :=
  .step (.ite (touches_count .damageMarked s) (.refl [.stu] s)) (touches_onTbi _ _) (by decide) (by decide)

theorem touches_ownVoidKind (m : TxMsg) : Touches [.tbi, .mbr] s (s.ownVoidKind m) := by
  have kept : Touches [.tbi, .mbr] s (s.onTbi Tbi.keepSent) := (touches_onTbi _ s).mono (by decide)
  have removed : Touches [.tbi, .mbr] s (s.onTbi Tbi.removeSent) := (touches_onTbi _ s).mono (by decide)
  unfold Station.ownVoidKind
  split
  · exact kept
  · exact kept
  · exact kept
  · exact kept
  · exact removed
  · exact removed
  · exact removed.also (touches_onMbr _ _) (by decide)
  · exact removed.also (touches_joinVoid _) (by decide)

theorem touches_withdraw (dest : StationState) :
    Touches [.tbi, .mbr, .ftc, .inq, .fie, .rbe, .mar, .stu] s (s.withdraw dest) := by
  intro b hb
  cases b <;> first | exact absurd hb (by decide) | rfl | exact fun _ => rfl

theorem touches_winArbitration (e : TxEntry) : Touches [.tbi, .stu] s (s.winArbitration e) := by
  have won : Touches [.tbi, .stu] s (s.onTbi (Tbi.win (s.assemble e.msg))) :=
    (touches_onTbi _ s).mono (by decide)
  unfold Station.winArbitration
  dsimp only
  split
  · exact won.also (touches_onStu _ _) (by decide)
  · exact won

theorem touches_arbitrate (others : List Byte) : Touches [.tbi, .stu] s (s.arbitrate others) := by
  have lost : Touches [.tbi, .stu] s (s.onTbi fun t => { t with contending := false }) :=
    (touches_onTbi _ s).mono (by decide)
  unfold Station.arbitrate
  refine .ite ?_ (.refl _ _)
  split
  · exact .ite lost (touches_winArbitration s _)
  · exact lost

/-! ## Standing messages -/

section
variable (r : Receiving)

theorem touches_tickStands : Touches [.tbi, .mbr, .ftc, .stu] s (tickStands r s) := by
  unfold tickStands
  split
  · split
    · refine .ite (.step (l₁ := [.tbi, .mbr]) ?_ (touches_acceptTick _ _) (by decide) (by decide)) (.refl _ _)
      exact .step (touches_onMbr _ s) (touches_beaconSlot _ _) (by decide) (by decide)
    · exact .step (touches_onMbr _ s) (touches_onFtc _ _) (by decide) (by decide)
    · exact (touches_onFtc _ s).mono (by decide)
    · exact .refl _ _
    · exact .refl _ _
  · exact .refl _ _

theorem touches_suspectStands : Touches [.tbi, .mbr, .ftc] s (suspectStands r s) := by
  unfold suspectStands
  split
  · exact .step (l₁ := [.mbr]) (.ite (touches_onMbr _ s) (.refl _ _)) (touches_loseStation _ _) (by decide)
      (by decide)
  · exact .refl _ _

theorem touches_joinStands : Touches [.tbi, .mbr, .ftc] s (joinStands r s) := by
  unfold joinStands
  split
  · exact .ite ((touches_becomeMember s).mono (by decide)) (touches_hearJoin s _ _)
  · exact .refl _ _

theorem touches_orderLeaveStands : Touches [.tbi] s (orderLeaveStands r s) := by
  unfold orderLeaveStands
  split
  · exact .ite (touches_onTbi _ s) (.refl _ _)
  · exact .refl _ _

theorem touches_dropStands : Touches [.tbi, .ftc, .fie] s (dropStands r s) := by
  unfold dropStands
  split
  · exact .ite (touches_dropSource s _) (.refl _ _)
  · exact .refl _ _

theorem touches_readyStands : Touches [.ftc] s (readyStands r s) := by
  unfold readyStands
  split
  · exact .ite (touches_onFtc _ s) (.refl _ _)
  · exact .refl _ _

theorem touches_beaconStands : Touches [.tbi, .mbr, .ftc] s (beaconStands r s) := by
  have adopted (x : Nat) (tile : Tile) (ms : StationSet) (last : Option FrameNo) {u : Station}
      (h : Touches [.tbi, .mbr] (s.adoptWall x tile ms last) u) : Touches [.tbi, .mbr, .ftc] s u :=
    .step (touches_adoptWall s x tile ms last) h (by decide) (by decide)
  unfold beaconStands
  split
  · split
    · exact .ite ((touches_onMbr _ s).mono (by decide)) (.refl _ _)
    · exact adopted _ _ _ _ (touches_enterJoining _)
    · exact adopted _ _ _ _ (touches_preCheck _)
    · exact .refl _ _
    · exact .refl _ _
  · exact .refl _ _

theorem touches_readReplyStands : Touches [.rbe, .ftc] s (readReplyStands r s) := by
  unfold readReplyStands
  split
  · dsimp only
    exact .ite (.ite (.step (touches_onRbe _ s) (touches_endRead _ _ _) (by decide) (by decide))
      ((touches_onRbe _ s).mono (by decide))) (.refl _ _)
  · exact .refl _ _

theorem touches_statusReportStands : Touches [.stu] s (statusReportStands r s) := by
  unfold statusReportStands
  exact .ite (touches_setPendingReport s _) (.refl _ _)

theorem touches_openStands : Touches [.tbi, .ftc, .fie, .stu] s (openStands r s) := by
  have moved (n : FrameNo) : Touches [.ftc] s (s.onFtc fun t => { t with lastOpened := some n }) :=
    touches_onFtc _ s
  unfold openStands
  split
  · refine .ite ?_ ((moved _).mono (by decide))
    split
    · exact .step (moved _) (touches_openRecord _ _ _ _ _) (by decide) (by decide)
    · exact (moved _).mono (by decide)
  · exact .refl _ _

theorem touches_closeStands : Touches [.tbi, .ftc, .fie] s (closeStands r s) := by
  unfold closeStands
  split
  · exact .ite (touches_closeRecord s _ _) (.refl _ _)
  · exact .refl _ _

theorem touches_fillStands : Touches [.inq, .ftc] s (fillStands r s) := by
  unfold fillStands
  split
  · exact touches_keepWrite s _
  · exact .refl _ _

theorem touches_readRequestStands : Touches [.rbe, .ftc] s (readRequestStands r s) := by
  unfold readRequestStands
  split
  · split
    · exact .ite (.step (touches_onRbe _ s) (touches_onFtc _ _) (by decide) (by decide)) (.refl _ _)
    · exact .refl _ _
  · exact .refl _ _

theorem touches_readCancelStands : Touches [.tbi, .rbe, .mar, .ftc] s (readCancelStands r s) := by
  unfold readCancelStands
  split
  · next tag _ =>
    refine .ite ?_ (.refl _ _)
    have ended : Touches [.tbi, .rbe, .mar, .ftc] s (s.endRead r.sender tag) :=
      (touches_endRead s r.sender tag).mono (by decide)
    exact (ended.also (touches_onTbi _ _) (by decide)).also (touches_onMar _ _) (by decide)
  · exact .refl _ _

theorem touches_statusQueryStands : Touches [.tbi, .stu] s (statusQueryStands r s) := by
  unfold statusQueryStands
  split
  · exact .ite (touches_takeQuery s _ _) (.refl _ _)
  · exact .refl _ _

end

/-! ## Bursts -/

theorem touches_requestAtIdle (r : Requester) : Touches [.mar, .ftc] s (s.requestAtIdle r) := by
  unfold Station.requestAtIdle
  exact .ite (touches_grant r s) (.refl _ _)

theorem touches_scanDone (b : Buf) (line seg : Nat) (dropped : Bool) :
    Touches [.scn] s (s.scanDone b line seg dropped) := by
  unfold Station.scanDone
  exact .ite (touches_onScn _ s) (.refl _ _)

theorem touches_applyDone (n slot : Nat) (dropped : Bool) :
    Touches [.inq, .tbi, .ftc, .fie] s (s.applyDone n slot dropped) := by
  unfold Station.applyDone
  refine .ite (.refl _ _) ?_
  split
  · split
    · exact (touches_onInq _ s).mono (by decide)
    · exact .step (touches_onInq _ s) (touches_pendingDown _ _) (by decide) (by decide)
  · exact .refl _ _

theorem touches_initBurstDone (n : Nat) (dropped : Bool) :
    Touches [.tbi, .ftc, .fie] s (s.initBurstDone n dropped) := by
  unfold Station.initBurstDone
  refine .ite (.refl _ _) ?_
  split
  · split
    · exact (touches_onFie _ s).mono (by decide)
    · exact touches_completeJob s
  · exact .refl _ _

theorem touches_readDone (sp : Span) (q : Nat) (tag : Byte) (dropped : Bool) :
    Touches [.tbi, .rbe] s (s.readDone sp q tag dropped) := by
  unfold Station.readDone
  refine .ite (.refl _ _) ?_
  split
  · exact .step (touches_onTbi _ s) (touches_onRbe _ _) (by decide) (by decide)
  · exact .refl _ _

theorem touches_endBurst (b : Burst) : Touches [.mem, .mar, .ftc] s (s.endBurst b) :=
  .step (.step (l := [.mem, .mar]) (touches_onMem _ s) (touches_onMar _ _) (by decide) (by decide))
    (touches_onFtc _ _) (by decide) (by decide)

theorem touches_refreshExpiry : Touches [.mar, .stu] s s.refreshExpiry := by
  unfold Station.refreshExpiry
  refine .step (l₁ := [.mar, .stu]) ?_ (touches_onMar _ _) (by decide) (by decide)
  exact .ite ((touches_onMar _ s).mono (by decide)) ((touches_count _ s).mono (by decide))

/-! ## Pulses and the panel -/

theorem touches_endRefresh : Touches [.scn, .mar] s s.endRefresh :=
  .step (touches_onScn _ s) (touches_onMar _ _) (by decide) (by decide)

theorem touches_beginRefresh : Touches [.scn] s s.beginRefresh := touches_onScn _ s

theorem touches_pulse : Touches [.scn, .ftc, .mbr, .tbi, .mar, .stu] s s.pulse :=
  (((touches_endRefresh s).mono (by decide)).also (touches_ftcPulse _) (by decide)).also
    (touches_mbrPulse _) (by decide) |>.also (touches_beginRefresh _) (by decide)

theorem touches_pulseFrom (src : PulseSource) :
    Touches [.scn, .ftc, .mbr, .tbi, .mar, .stu] s (s.pulseFrom src) := by
  cases src with
  | wsyncEdge => exact .step (touches_onScn _ s) (touches_pulse _) (by decide) (by decide)
  | syncLost =>
    refine .ite (.refl _ _) (.step (l₁ := [.scn, .stu]) ?_ (touches_pulse _) (by decide) (by decide))
    exact .step (touches_onScn _ s) (touches_count _ _) (by decide) (by decide)
  | freeRunExpiry =>
    exact .ite (.step (touches_onScn _ s) (touches_pulse _) (by decide) (by decide)) (.refl _ _)

theorem touches_skipFetch : Touches [.scn] s s.skipFetch := by
  unfold Station.skipFetch
  exact .ite (touches_onScn _ s) (.refl _ _)

theorem touches_advanceOutput : Touches [.scn] s s.advanceOutput := by
  unfold Station.advanceOutput
  split <;> exact touches_onScn _ s

theorem touches_segmentTaken : Touches [.scn, .stu] s s.segmentTaken := by
  have shown (ps : List Rgb) : Touches [.scn, .stu] s (s.showSegment ps) := (touches_onScn _ s).mono (by decide)
  have moved {u : Station} (h : Touches [.scn, .stu] s u) : Touches [.scn, .stu] s u.advanceOutput :=
    h.also (touches_advanceOutput u) (by decide)
  have skipped {u : Station} (h : Touches [.scn, .stu] s u) : Touches [.scn, .stu] s u.skipFetch :=
    h.also (touches_skipFetch u) (by decide)
  unfold Station.segmentTaken
  refine .ite ?_ (.refl _ _)
  split
  · exact moved (skipped (shown _))
  · exact moved ((shown _).also (touches_onScn _ _) (by decide))
  · exact moved (skipped ((shown _).also (touches_count _ _) (by decide)))

theorem touches_blankingEnd : Touches [.scn] s s.blankingEnd := by
  unfold Station.blankingEnd
  exact .ite (touches_onScn _ s) (.refl _ _)

end Sys2Proof.Machine
end

section
/-! PROOF. The init list keeps one active job at its head (R114, R116, R117), and every step keeps the station
sound. -/

namespace Sys2Proof.Machine

section
variable {s t : Station}

/-! ## The init list -/

/-- Jobs that have not been reached (R116). -/
def AllQueued (js : List InitJob) : Prop := ∀ k ∈ js, k.phase = .queued

theorem Station.InitListFits.of_fie (h : s.InitListFits) (same : t.fie = s.fie) : t.InitListFits := by
  unfold Station.InitListFits
  rwa [same]

theorem Station.InitListFits.nil (h : s.fie = []) : s.InitListFits :=
  ⟨fun j rest hf => by simp [h] at hf, fun j hj => by simp [h] at hj⟩

/-- An active job before jobs not reached. -/
theorem Station.InitListFits.of_cons {j : InitJob} {js : List InitJob} (h : s.fie = j :: js)
    (active : j.phase ≠ .queued) (rest : AllQueued js)
    (source : j.work = .copy → j.phase = .running → j.source.isSome = true) : s.InitListFits := by
  refine ⟨fun k ks hf => ?_, fun k hk copy running => ?_⟩
  · obtain ⟨rfl, rfl⟩ := List.cons.inj (h.symm.trans hf)
    exact ⟨active, rest⟩
  · rw [h] at hk
    rcases List.mem_cons.mp hk with rfl | later
    · exact source copy running
    · simp [rest k later] at running

theorem Station.InitListFits.rest {j : InitJob} {js : List InitJob} (h : s.InitListFits) (hf : s.fie = j :: js) :
    j.phase ≠ .queued ∧ AllQueued js := h.1 j js hf

theorem Station.InitListFits.touched {l : List Block} (h : s.InitListFits) (ht : Touches l s t)
    (hl : Block.fie ∉ l) : t.InitListFits := h.of_fie (ht.fie hl)

theorem Station.beginCopy_of_held {j : InitJob} {js : List InitJob} {p : FrameRecord} (hf : s.fie = j :: js)
    (hp : s.ftc.find (j.frame - 1) = some p) :
    s.beginCopy = (s.onFie fun _ => { j with source := some p.buffer, phase := .running } :: js).onFtc
      (Ftc.pinUp p.frame) := by
  simp only [Station.beginCopy, hf, hp]

theorem Station.beginCopy_of_not_held {j : InitJob} {js : List InitJob} (hf : s.fie = j :: js)
    (hp : s.ftc.find (j.frame - 1) = none) : s.beginCopy = s := by
  simp only [Station.beginCopy, hf, hp]

/-- A FILL job that is reached runs at once (R116). -/
theorem Station.activateJob_fill {j : InitJob} {js : List InitJob} {c : Pixel} (hf : s.fie = j :: js)
    (queued : j.phase = .queued) (hw : j.work = .fill c) :
    s.activateJob = s.onFie fun _ => { j with phase := .running } :: js := by
  simp only [Station.activateJob, hf, queued, hw, if_true]

/-- A COPY job that is reached copies from a drained predecessor (R116). -/
theorem Station.activateJob_copy {j : InitJob} {js : List InitJob} {p : FrameRecord} (hf : s.fie = j :: js)
    (queued : j.phase = .queued) (hw : j.work = .copy) (hp : s.ftc.find (j.frame - 1) = some p)
    (drained : p.state.hasDrained = true) : s.activateJob = s.beginCopy := by
  simp only [Station.activateJob, hf, queued, hw, hp, drained, if_true]

/-- A COPY job that is reached waits for any other predecessor (R116). -/
theorem Station.activateJob_wait {j : InitJob} {js : List InitJob} (hf : s.fie = j :: js)
    (queued : j.phase = .queued) (hw : j.work = .copy)
    (hp : ∀ p, s.ftc.find (j.frame - 1) = some p → p.state.hasDrained = false) :
    s.activateJob = s.onFie fun _ => { j with phase := .waiting } :: js := by
  cases held : s.ftc.find (j.frame - 1) with
  | none => simp only [Station.activateJob, hf, queued, hw, held, if_true]
  | some p => simp only [Station.activateJob, hf, queued, hw, held, hp p held, if_true, Bool.false_eq_true,
      if_false]

theorem Station.activateJob_of_active {j : InitJob} {js : List InitJob} (hf : s.fie = j :: js)
    (active : j.phase ≠ .queued) : s.activateJob = s := by
  simp only [Station.activateJob, hf, active, if_false]

/-- The copy at the head of a list of unreached jobs behind it begins. -/
theorem Station.beginCopy_fits (h : s.InitListFits ∨ AllQueued s.fie ∧ ∃ j js p, s.fie = j :: js ∧
    s.ftc.find (j.frame - 1) = some p) : s.beginCopy.InitListFits := by
  have begun {j : InitJob} {js : List InitJob} {p : FrameRecord} (hf : s.fie = j :: js)
      (hp : s.ftc.find (j.frame - 1) = some p) (rest : AllQueued js) : s.beginCopy.InitListFits := by
    refine .of_cons (j := { j with source := some p.buffer, phase := .running }) (js := js) ?_
      (by simp) rest fun _ _ => rfl
    rw [Station.beginCopy_of_held hf hp]
    rfl
  rcases h with h | ⟨queued, j, js, p, hf, hp⟩
  · cases hf : s.fie with
    | nil => exact h.of_fie (by simp [Station.beginCopy, hf])
    | cons j js =>
      cases hp : s.ftc.find (j.frame - 1) with
      | none => rwa [Station.beginCopy_of_not_held hf hp]
      | some p => exact begun hf hp (h.rest hf).2
  · exact begun hf hp fun k hk => queued k (hf ▸ List.mem_cons_of_mem _ hk)

theorem Station.InitListFits.wakeCopy (n : FrameNo) (h : s.InitListFits) : (s.wakeCopy n).InitListFits := by
  unfold Station.wakeCopy
  split
  · split
    · exact Station.beginCopy_fits (.inl h)
    · exact h
  · exact h

/-- No copy waits in a list of unreached jobs. -/
theorem Station.wakeCopy_of_queued (n : FrameNo) (h : AllQueued s.fie) : s.wakeCopy n = s := by
  unfold Station.wakeCopy
  split
  · next j js hf =>
    have queued : j.phase = .queued := h j (hf ▸ List.mem_cons_self)
    simp [queued]
  · rfl

theorem Station.InitListFits.drain (n : FrameNo) (h : s.InitListFits) : (s.drain n).InitListFits := by
  have marked : (s.onFtc (Ftc.setState n .drained)).InitListFits := h
  exact (marked.touched (touches_queueReady n _) (by decide)).wakeCopy n

theorem Station.drain_fie_of_queued (n : FrameNo) (h : AllQueued s.fie) : (s.drain n).fie = s.fie := by
  have same : ((s.onFtc (Ftc.setState n .drained)).queueReady n).fie = s.fie :=
    (touches_queueReady n _).fie (by decide)
  rw [Station.drain, Station.wakeCopy_of_queued n (by rwa [same]), same]

theorem Station.InitListFits.applySeal (n : FrameNo) (h : s.InitListFits) : (s.applySeal n).InitListFits := by
  unfold Station.applySeal
  split
  · split
    · split
      · exact h
      · exact h.drain n
    · exact h
  · exact h

theorem Station.InitListFits.initDone (n : FrameNo) (h : s.InitListFits) : (s.initDone n).InitListFits := by
  unfold Station.initDone
  split
  · split
    · split
      · exact h
      · split
        · exact h
        · exact h.drain n
    · exact h
  · exact h

theorem Station.initDone_fie_of_queued (n : FrameNo) (h : AllQueued s.fie) : (s.initDone n).fie = s.fie := by
  unfold Station.initDone
  split
  · split
    · split
      · rfl
      · split
        · rfl
        · exact Station.drain_fie_of_queued n h
    · rfl
  · rfl

theorem Station.InitListFits.pendingDown (n : FrameNo) (h : s.InitListFits) : (s.pendingDown n).InitListFits := by
  have lower : (s.onFtc (Ftc.onRecord n fun r => { r with pending := r.pending - 1 })).InitListFits := h
  unfold Station.pendingDown
  dsimp only
  split
  · split
    · exact lower.drain n
    · exact lower
  · exact lower

/-- The head of a list of unreached jobs becomes active (R116). -/
theorem Station.activateJob_fits_of_queued (h : AllQueued s.fie) : s.activateJob.InitListFits := by
  cases hf : s.fie with
  | nil => exact .nil (by simp [Station.activateJob, hf])
  | cons j js =>
    have queued : j.phase = .queued := h j (hf ▸ List.mem_cons_self)
    have rest : AllQueued js := fun k hk => h k (hf ▸ List.mem_cons_of_mem _ hk)
    cases hw : j.work with
    | fill c =>
      rw [Station.activateJob_fill hf queued hw]
      exact .of_cons (j := { j with phase := .running }) (js := js) rfl (by simp) rest
        fun copy => by simp [hw] at copy
    | copy =>
      by_cases drained : ∃ p, s.ftc.find (j.frame - 1) = some p ∧ p.state.hasDrained = true
      · obtain ⟨p, hp, hd⟩ := drained
        rw [Station.activateJob_copy hf queued hw hp hd]
        exact Station.beginCopy_fits (.inr ⟨h, j, js, p, hf, hp⟩)
      · rw [Station.activateJob_wait hf queued hw fun p hp =>
          Bool.eq_false_iff.mpr fun hd => drained ⟨p, hp, hd⟩]
        exact .of_cons (j := { j with phase := .waiting }) (js := js) rfl (by simp) rest
          fun _ running => by simp at running

theorem Station.InitListFits.addJob (n : FrameNo) (w : InitWork) (b : Buf) (h : s.InitListFits) :
    (s.addJob n w b).InitListFits := by
  unfold Station.addJob
  cases hf : s.fie with
  | nil => exact Station.activateJob_fits_of_queued (by simp [hf, AllQueued])
  | cons j js =>
    obtain ⟨active, rest⟩ := h.rest hf
    rw [Station.activateJob_of_active (by rw [Station.onFie_fie, hf]; rfl) active]
    refine .of_cons (by rw [Station.onFie_fie, hf]; rfl) active (fun k hk => ?_)
      (h.2 j (hf ▸ List.mem_cons_self))
    rcases List.mem_append.mp hk with old | new
    · exact rest k old
    · rw [List.mem_singleton.mp new]

theorem Station.InitListFits.takeInit (n : FrameNo) (m : InitMode) (c : Pixel) (b : Buf) (h : s.InitListFits) :
    (s.takeInit n m c b).InitListFits := by
  have counted : (s.count .seedMissing).InitListFits := h
  unfold Station.takeInit
  split
  · exact h.addJob _ _ _
  · split
    · exact h.addJob _ _ _
    · exact counted.addJob _ _ _
  · exact h.initDone n

theorem Station.InitListFits.completeJob (h : s.InitListFits) : s.completeJob.InitListFits := by
  unfold Station.completeJob
  split
  · next j js hf =>
    have queued : AllQueued ((if j.work = .copy then s.onFtc (Ftc.pinDown (j.frame - 1)) else s).onFie
        List.tail).fie := by
      have same : (if j.work = .copy then s.onFtc (Ftc.pinDown (j.frame - 1)) else s).fie = j :: js := by
        split <;> exact hf
      rw [Station.onFie_fie, same]
      exact (h.rest hf).2
    exact Station.activateJob_fits_of_queued (by rwa [Station.initDone_fie_of_queued _ queued])
  · exact h

theorem Station.InitListFits.initBurstDone (n : Nat) (dropped : Bool) (h : s.InitListFits) :
    (s.initBurstDone n dropped).InitListFits := by
  unfold Station.initBurstDone
  split
  · exact h
  · split
    · next j js hf =>
      split
      · next k hk =>
        obtain ⟨active, rest⟩ := h.rest hf
        have same : k.phase = j.phase ∧ k.work = j.work ∧ k.source = j.source := by
          unfold InitJob.advance at hk
          (repeat' split at hk) <;> simp only [Option.some.injEq, reduceCtorEq] at hk <;> subst hk <;>
            exact ⟨rfl, rfl, rfl⟩
        obtain ⟨phase, work, source⟩ := same
        refine .of_cons (j := k) (js := js) rfl (phase ▸ active) rest ?_
        rw [phase, work, source]
        exact h.2 j (hf ▸ List.mem_cons_self)
      · exact h.completeJob
    · exact h

theorem Station.InitListFits.applyDone (n slot : Nat) (dropped : Bool) (h : s.InitListFits) :
    (s.applyDone n slot dropped).InitListFits := by
  unfold Station.applyDone
  split
  · exact h
  · split
    · split
      · exact h
      · exact Station.InitListFits.pendingDown _ h
    · exact h

theorem Station.InitListFits.requesterDone (b : Burst) (h : s.InitListFits) :
    (s.requesterDone b).InitListFits := by
  unfold Station.requesterDone
  split
  · exact h.touched (touches_scanDone _ _ _ _ _) (by decide)
  · exact h
  · exact h.applyDone _ _ _
  · exact h.initBurstDone _ _
  · exact h.initBurstDone _ _
  · exact h.touched (touches_readDone _ _ _ _ _) (by decide)

theorem Station.InitListFits.complete (r : Requester) (h : s.InitListFits) : (s.complete r).InitListFits := by
  unfold Station.complete
  split
  · next b _ =>
    split
    · have ended : (s.endBurst b).InitListFits := h
      exact (ended.requesterDone b).touched (touches_decideGrant _) (by decide)
    · exact h
  · exact h

/-! ## Messages -/

theorem Station.InitListFits.openRecord (n : FrameNo) (m : InitMode) (c : Option Pixel) (q : PartySet)
    (h : s.InitListFits) : (s.openRecord n m c q).InitListFits := by
  unfold Station.openRecord
  split
  · exact h
  · exact Station.InitListFits.takeInit _ _ _ _ h

theorem Station.InitListFits.dropSource (p : Nat) (h : s.InitListFits) : (s.dropSource p).InitListFits := by
  have sealed (ns : List FrameNo) : ∀ u : Station, u.InitListFits →
      (ns.foldl (fun s n => s.applySeal n) u).InitListFits := by
    induction ns with
    | nil => exact fun _ hu => hu
    | cons n ns ih => exact fun u hu => ih _ (hu.applySeal n)
  unfold Station.dropSource
  split
  · exact sealed _ _ h
  · exact h

theorem Station.InitListFits.withdraw (dest : StationState) : (s.withdraw dest).InitListFits := .nil rfl

/-- What stands in a kind keeps the init list's invariant. -/
theorem Station.InitListFits.standsOf (k : Kind) (r : Receiving) (h : s.InitListFits) :
    (standsOf k r s).InitListFits := by
  cases k with
  | tick => exact h.touched (touches_tickStands s r) (by decide)
  | suspect => exact h.touched (touches_suspectStands s r) (by decide)
  | join => exact h.touched (touches_joinStands s r) (by decide)
  | leave =>
    change (leaveStands r s).InitListFits
    unfold leaveStands
    split
    · split
      · exact .withdraw _
      · exact h.touched (touches_loseStation s _) (by decide)
    · exact h
  | wallReset =>
    change (wallResetStands r s).InitListFits
    unfold wallResetStands
    split
    · exact .withdraw _
    · exact h
  | orderLeave => exact h.touched (touches_orderLeaveStands s r) (by decide)
  | orderRejoin => exact h.touched (touches_orderRejoinStands r s) (by decide)
  | drop =>
    change (dropStands r s).InitListFits
    unfold dropStands
    split
    · split
      · exact h.dropSource _
      · exact h
    · exact h
  | ready => exact h.touched (touches_readyStands s r) (by decide)
  | beacon => exact h.touched (touches_beaconStands s r) (by decide)
  | readReply => exact h.touched (touches_readReplyStands s r) (by decide)
  | statusReport => exact h.touched (touches_statusReportStands s r) (by decide)
  | openFrame =>
    change (openStands r s).InitListFits
    unfold openStands
    split
    · dsimp only
      split
      · split
        · exact Station.InitListFits.openRecord _ _ _ _ h
        · exact h
      · exact h
    · exact h
  | closeFrame =>
    change (closeStands r s).InitListFits
    unfold closeStands
    split
    · split
      · exact Station.InitListFits.applySeal _ h
      · exact h
    · exact h
  | fill => exact h.touched (touches_fillStands s r) (by decide)
  | run => exact h.touched (touches_fillStands s r) (by decide)
  | readRequest => exact h.touched (touches_readRequestStands s r) (by decide)
  | readCancel => exact h.touched (touches_readCancelStands s r) (by decide)
  | statusQuery => exact h.touched (touches_statusQueryStands s r) (by decide)

theorem Station.InitListFits.ownVoid (damage : Bool) (h : s.InitListFits) : (s.ownVoid damage).InitListFits := by
  have streaked {u : Station} (hu : u.InitListFits) : (u.streak damage).InitListFits := by
    unfold Station.streak
    split
    · split
      · exact hu
      · exact .withdraw _
    · exact hu
  unfold Station.ownVoid
  refine streaked ?_
  split
  · have handled (m : TxMsg) : ((s.count .ownVoided).ownVoidKind m).InitListFits :=
      Station.InitListFits.touched (s := s.count .ownVoided) h (touches_ownVoidKind _ _) (by decide)
    exact handled _
  · exact h

theorem Station.InitListFits.verdict {st : Stands}
    (hst : ∀ (r : Receiving) {u : Station}, u.InitListFits → (st r u).InitListFits) (code : Byte) (v : Slots)
    (h : s.InitListFits) : (s.verdict code st v).InitListFits := by
  unfold Station.verdict
  split
  · exact h
  · next r _ =>
    have closed : (s.closeReceiving r).InitListFits := h.touched (touches_closeReceiving s r) (by decide)
    split
    · dsimp only
      split
      · refine hst r ?_
        split <;> exact closed
      · split
        · exact closed.ownVoid _
        · exact closed
    · exact h

theorem Station.InitListFits.message (k : Kind) (e : MsgEvent) (h : s.InitListFits) :
    (s.message k (decideOf k) (Machine.standsOf k) e).InitListFits := by
  have heard (x : Heard) : (s.hear k (decideOf k) x).InitListFits := h.touched (touches_hear _ _ _ _) (by decide)
  unfold Station.message
  split
  · exact heard _
  · exact h.verdict (fun r _ hu => hu.standsOf k r) _ _
  · split
    · exact h
    · exact (heard _).verdict (fun r _ hu => hu.standsOf k r) _ _

theorem Station.InitListFits.unknownMessage (code : Byte) (e : MsgEvent) (h : s.InitListFits) :
    (s.unknownMessage code e).InitListFits := by
  have heard (x : Heard) : (s.hearUnknown code x).InitListFits := h.touched (touches_hearUnknown _ _ _) (by decide)
  unfold Station.unknownMessage
  split
  · exact heard _
  · exact h.verdict (fun _ _ hu => hu) _ _
  · split
    · exact h
    · exact (heard _).verdict (fun _ _ hu => hu) _ _

/-! ## Every step -/

/-- While RESET# is asserted the invariants of what moves under it are not asked for. -/
theorem Station.Sound.assertReset (h : s.Sound) : s.assertReset.Sound := by
  have memory := Station.wf_assertReset h.memory
  have asserted : s.assertReset.resetAsserted = true := rfl
  have kept : s.assertReset.inq = s.inq ∧ s.assertReset.rbe = s.rbe ∧ s.assertReset.mbr = s.mbr ∧
      s.assertReset.fie = s.fie ∧ s.assertReset.ftc = s.ftc := by
    unfold Station.assertReset
    cases s.mar.burst <;> exact ⟨rfl, rfl, rfl, rfl, rfl⟩
  obtain ⟨inq, rbe, mbr, fie, ftc⟩ := kept
  have bounded := h.bounded
  exact {
    memory := memory
    bounded := {
      entries := by
        rw [inq]
        exact Nat.le_trans (Nat.add_le_add_left (Nat.zero_le _) _) bounded.entries
      pixels := by
        rw [inq]
        exact Nat.le_trans (Nat.add_le_add_left (Nat.zero_le _) _) bounded.pixels
      reads := by
        rw [rbe]
        exact Nat.le_trans (Nat.add_le_add_left (Nat.zero_le _) _) bounded.reads
      debt := bounded.debt
      fifo := Nat.le_trans (Nat.add_le_add_left (Nat.zero_le _) _) bounded.fifo
      streak := bounded.streak
      retries := by rw [mbr]; exact bounded.retries
      wait := by rw [mbr]; exact bounded.wait
      watches := by rw [mbr]; exact bounded.watches
      stations := by rw [mbr]; exact bounded.stations }
    history := h.history
    marks := fun live => absurd (asserted.symm.trans live) (by simp)
    initList := h.initList.of_fie fie
    nonMember := fun hs => by
      rw [mbr] at hs
      obtain ⟨duty, held, records, noInq, noFie, noRbe, -⟩ := h.nonMember hs
      rw [mbr, ftc, inq, fie, rbe]
      exact ⟨duty, held, records, noInq, noFie, noRbe, fun r hr => absurd hr (Option.some_ne_none r).symm⟩
    oneOffer := fun live => absurd (asserted.symm.trans live) (by simp)
    sets := by
      unfold Station.ReadyWithinRequired
      rw [ftc]
      exact h.sets
    panel := fun live => absurd (asserted.symm.trans live) (by simp) }

/-- Every block in its reset state is sound (R20). -/
theorem Station.sound_released (straps : Straps) (busy : Bool) {mem : Memory} (free : Nat)
    (h : Memory.wf mem = true) : (Station.released straps busy mem free).Sound := by
  refine Station.Whole.sound ?_ (.nil rfl)
  exact {
    memory := h
    room := ⟨Nat.zero_le 32, Nat.zero_le 4096, Nat.zero_le 4, fun hn => absurd rfl hn⟩
    streak := Nat.succ_pos 31
    offering := ⟨Nat.zero_le 1, fun _ _ he => absurd he List.not_mem_nil, fun hc => absurd hc Bool.false_ne_true⟩
    membership := ⟨Nat.succ_pos 15, Nat.zero_le 4,
      fun e he => by simp [(List.mem_replicate.mp he).2, RosterEntry.absent], List.length_replicate⟩
    idle := fun _ => ⟨rfl, rfl, rfl, rfl, rfl, rfl⟩
    debt := Nat.zero_le 8
    history := ⟨(by decide : Mar.reset.history.Nodup), fun r => by cases r <;> simp [Station.released, Mar.reset]⟩
    fifo := Nat.zero_le 8
    marks := fun b => by cases b <;> simp [Station.released, Ftc.reset, BufDesc.reset, Buffers.get, Mar.reset]
    sets := fun r hr => absurd hr List.not_mem_nil
    panel := ⟨fun _ => rfl, fun hp => by simp [Station.released, Scn.reset] at hp⟩ }

theorem Station.Sound.releaseReset (pins : BitVec 17) (busy : Bool) (h : s.Sound) :
    (s.releaseReset pins busy).Sound :=
  Station.sound_released _ _ _ (Station.wf_releaseReset pins busy h.memory)

/-- Every operation keeps a live station sound. -/
theorem Operation.sound {c : Instr} {f : Station → Station} (op : Operation c f)
    (live : s.resetAsserted = false) (h : s.Sound) : (f s).Sound := by
  have whole := h.whole live
  have list := h.initList
  cases op with
  | assertReset => exact h.assertReset
  | busIdle => exact (whole.onTbi (Tbi.moves_idle _)).sound list
  | arbitration others =>
    exact (whole.arbitrate others).sound (list.touched (touches_arbitrate s others) (by decide))
  | message k e => exact (whole.message k e).sound (list.message k e)
  | unknown code e => exact (whole.unknownMessage code e).sound (list.unknownMessage code e)
  | pulse src => exact (whole.pulseFrom src).sound (list.touched (touches_pulseFrom s src) (by decide))
  | namedPulse due src =>
    refine (whole.namedPulse _ _).sound ?_
    unfold Station.namedPulse
    split
    · exact list.touched (touches_pulseFrom s _) (by decide)
    · exact list
  | blankingEnd => exact whole.blankingEnd.sound (list.touched (touches_blankingEnd s) (by decide))
  | segmentTaken => exact whole.segmentTaken.sound (list.touched (touches_segmentTaken s) (by decide))
  | refreshExpiry => exact whole.refreshExpiry.sound (list.touched (touches_refreshExpiry s) (by decide))
  | requestAtIdle r => exact (whole.requestAtIdle r).sound (list.touched (touches_requestAtIdle s r) (by decide))
  | completion r => exact (whole.complete _).sound (list.complete _)

/-- Time passes with every invariant kept; the invariants of a reset station ask nothing of its timers. -/
theorem Station.Sound.timersRun (n : Nat) (h : s.Sound) : Station.Sound { s.timersRun with free := n } where
  memory := h.memory
  bounded :=
    have bounded := h.bounded
    ⟨bounded.entries, bounded.pixels, bounded.reads, bounded.debt, bounded.fifo, bounded.streak,
      bounded.retries, bounded.wait, bounded.watches, bounded.stations⟩
  history := h.history
  marks := h.marks
  initList := h.initList
  nonMember := h.nonMember
  oneOffer := h.oneOffer
  sets := h.sets
  panel := h.panel

end

/-- Settles O60: each operation keeps each block's invariants, by the moves it makes of the blocks. -/
theorem everyStepKeepsTheStationSound : Obligations.EveryStepKeepsTheStationSound := fun _ _ =>
  step_keeps (P := Station.Sound) (fun pins busy _ h => h.releaseReset pins busy)
    (fun _ _ _ op live h => op.sound live h) (fun _ n h => h.timersRun n)

end Sys2Proof.Machine
end

section
/-! PROOF. Steps, the passing of time, and the pin reset (R20, R22, R131, R147, R148). -/

namespace Sys2Proof.Machine

/-! ## Steps -/

/-- Settles O1: the queue's front is what a step runs. -/
theorem stepRunsTheFrontCommand : Obligations.StepRunsTheFrontCommand := fun _ _ _ => step_cons

theorem exec_of_asserted {c : Instr} {s : State} (h : s.resetAsserted = true)
    (hc : ∀ pins busy, c ≠ .resetRelease pins busy) : exec c s = .next s := by
  obtain ⟨f, -, runs⟩ := operation_of_not_release hc
  rw [runs, onLive_asserted h]

theorem exec_release (pins : BitVec 17) (busy : Bool) (s : State) :
    exec (.resetRelease pins busy) s = .next (s.putStation (s.toStation.releaseReset pins busy)) := rfl

theorem exec_next (c : Instr) (s : State) : ∃ t, exec c s = .next t ∧ t.pending = s.pending := by
  by_cases hc : ∀ pins busy, c ≠ .resetRelease pins busy
  · obtain ⟨f, -, runs⟩ := operation_of_not_release hc
    obtain ⟨t, live, pending, -⟩ := onLive_next f s
    exact ⟨t, (runs s).trans live, pending⟩
  · simp only [ne_eq, Classical.not_forall, Classical.not_not] at hc
    obtain ⟨pins, busy, rfl⟩ := hc
    exact ⟨_, exec_release pins busy s, rfl⟩

/-- Settles O6: the release is one next state and every other command a live event; the straps are O39's. -/
theorem commandsKeepTheQueueAndTheStraps : Obligations.CommandsKeepTheQueueAndTheStraps := fun c s => by
  obtain ⟨t, next, pending⟩ := exec_next c s
  exact ⟨t, next, pending, fun hc => exec_straps hc next⟩

/-! ## Time (log 9) -/

theorem Station.mem_expiries (c : Instr) (s : Station) :
    c ∈ s.expiries ↔ c ∈ s.pulseExpired ∨ c ∈ s.refreshExpired := by
  unfold Station.expiries
  generalize s.pulseExpired = p, s.refreshExpired = m
  split
  · simp only [List.not_mem_nil, or_false]
  · simp only [List.not_mem_nil, false_or]
  · split
    · exact List.mem_append.trans or_comm
    · exact List.mem_append

theorem Station.mem_refreshExpired (c : Instr) (s : Station) :
    c ∈ s.refreshExpired ↔ c = .memoryRefreshExpiry ∧ s.mar.timer = 0 := by
  unfold Station.refreshExpired
  split <;> simp_all

theorem Station.mem_pulseExpired (c : Instr) (s : Station) :
    c ∈ s.pulseExpired ↔
      (c = .syncLost ∧ s.scn.freeRun = false ∧ Config.syncWatchLimit ≤ s.scn.syncWatch) ∨
      (c = .freeRunExpiry ∧ ¬(s.scn.freeRun = false ∧ Config.syncWatchLimit ≤ s.scn.syncWatch) ∧
        s.scn.freeRunTimer = some 0) := by
  unfold Station.pulseExpired
  split
  · simp_all
  · split <;> simp_all

theorem step_idle_live {s : State} (hp : s.pending = []) (live : s.resetAsserted = false) :
    step s = .next { toStation := { s.toStation.timersRun with free := s.free + 1 }
                     pending := s.toStation.timersRun.expiries } := by
  rw [step_nil hp]
  simp [State.timePasses, live, hp, Station.timersRun]

theorem syncWatch_runs (n : Nat) : Config.syncWatchLimit ≤ min (n + 1) Config.syncWatchLimit ↔ 250004 ≤ n := by
  simp only [Config.syncWatchLimit]
  omega

theorem freeRunTimer_runs (o : Option Nat) : o.map (· - 1) = some 0 ↔ ∃ n, o = some n ∧ n ≤ 1 := by
  cases o with
  | none => simp
  | some n =>
    simp only [Option.map_some, Option.some.injEq, exists_eq_left']
    omega

/-- Settles O2: the timers run, and each expiry that joins the queue is told by its own timer. -/
theorem idleStepMovesOnlyTheTimers : Obligations.IdleStepMovesOnlyTheTimers := by
  intro s hp
  refine ⟨fun asserted => ?_, fun live => ?_⟩
  · rw [step_nil hp]
    simp [State.timePasses, asserted]
  · refine ⟨_, step_idle_live hp live, rfl, rfl, ?_, ?_, ?_, ?_, ?_⟩
    · intro b hb
      cases b <;> first | exact absurd hb (by decide) | rfl | exact fun _ => rfl
    · simp only [Station.mem_expiries, Station.mem_pulseExpired, Station.mem_refreshExpired, reduceCtorEq,
        false_and, or_self, true_and, false_or]
      exact Nat.sub_eq_zero_iff_le
    · simp only [Station.mem_expiries, Station.mem_pulseExpired, Station.mem_refreshExpired, reduceCtorEq,
        false_and, or_false, true_and]
      exact and_congr_right fun _ => syncWatch_runs _
    · simp only [Station.mem_expiries, Station.mem_pulseExpired, Station.mem_refreshExpired, reduceCtorEq,
        false_and, or_false, true_and, false_or]
      exact and_congr (not_congr (and_congr_right fun _ => syncWatch_runs _)) (freeRunTimer_runs _)
    · intro c hc
      simp only [Station.mem_expiries, Station.mem_pulseExpired, Station.mem_refreshExpired] at hc
      rcases hc with (⟨rfl, -⟩ | ⟨rfl, -⟩) | ⟨rfl, -⟩ <;> simp

/-! ## RESET# asserted (R20, R112, R126) -/

/-- An abandoned burst leaves a byte outside its run as it is. -/
theorem Memory.read_mixRun_ne (new : Memory) (choice k n : Nat) {m : Memory} {a : Nat}
    (h : Memory.wf m = true) (ha : a < k ∨ k + n ≤ a) :
    Memory.read (Memory.mixRun new choice k n m) a = Memory.read m a := by
  induction n generalizing k m with
  | zero => rfl
  | succ n ih =>
    simp only [Memory.mixRun]
    split
    · rw [ih (k + 1) (Memory.wf_write _ _ h) (by omega), Memory.read_write _ _ _ h, if_neg (by omega)]
    · exact ih (k + 1) h (by omega)

theorem Station.assertReset_mem (s : Station) :
    s.assertReset.mem = (match s.mar.burst with | some b => b.work.abandon s.free s.mem | none => s.mem) := by
  unfold Station.assertReset
  cases s.mar.burst <;> rfl

theorem BurstWork.read_abandon (w : BurstWork) (choice : Nat) {m : Memory} (h : Memory.wf m = true) (a : Nat) :
    Memory.read (w.abandon choice m) a = Memory.read m a ∨
      Memory.read (w.abandon choice m) a = Memory.read (w.write m) a := by
  unfold BurstWork.abandon
  split
  · exact .inl rfl
  · exact Memory.read_mixRun _ _ _ _ _ h

theorem BurstWork.read_abandon_ne (w : BurstWork) (choice : Nat) {m : Memory} (h : Memory.wf m = true) {a : Nat}
    (ha : ∀ sp, w.written = some sp → a < pixelAddr sp.buffer sp.line sp.col ∨
      pixelAddr sp.buffer sp.line sp.col + 4 * sp.count ≤ a) :
    Memory.read (w.abandon choice m) a = Memory.read m a := by
  unfold BurstWork.abandon
  split
  · rfl
  · next sp hsp => exact Memory.read_mixRun_ne _ _ _ _ h (ha sp hsp)

theorem touches_assertReset (s : Station) :
    Touches [.reset, .tbi, .mar, .scn, .mem, .free] s s.assertReset := by
  unfold Station.assertReset
  cases s.mar.burst <;> intro b hb <;> cases b <;> first | exact absurd hb (by decide) | rfl

/-- Settles O3: an asserted station takes no event; the assertion itself abandons the burst in flight. -/
theorem resetAssertStopsTheStation : Obligations.ResetAssertStopsTheStation := by
  refine ⟨fun c s asserted hc => exec_of_asserted asserted hc, fun s live hm => ?_⟩
  have memory := s.toStation.assertReset_mem
  refine ⟨s.putStation s.toStation.assertReset, onLive_live live, rfl, rfl, rfl, rfl, ?_, ?_,
    .of_touches (touches_assertReset _)⟩
  · intro a
    rw [State.putStation_toStation, memory]
    cases hb : s.mar.burst with
    | none => exact .inl rfl
    | some b =>
      exact (b.work.read_abandon _ hm a).imp_right fun new => ⟨b, rfl, new⟩
  · intro a ha
    rw [State.putStation_toStation, memory]
    cases hb : s.mar.burst with
    | none => rfl
    | some b => exact b.work.read_abandon_ne _ hm fun sp hsp => ha b sp hb hsp

/-! ## RESET# released (R20, R22, R186) -/

theorem Station.releaseReset_of_asserted {s : Station} (pins : BitVec 17) (busy : Bool)
    (h : s.resetAsserted = true) :
    s.releaseReset pins busy = Station.released (Straps.ofPins pins) busy s.mem s.free := by
  simp [Station.releaseReset, h]

theorem Station.releaseReset_of_live {s : Station} (pins : BitVec 17) (busy : Bool)
    (h : s.resetAsserted = false) :
    s.releaseReset pins busy = s.assertReset.releaseReset pins busy := by
  rw [Station.releaseReset_of_asserted pins busy (rfl : s.assertReset.resetAsserted = true)]
  simp [Station.releaseReset, h]

theorem extractLsb'_toNat_of_lt {start len : Nat} (p : BitVec 17) :
    (p.extractLsb' start len).toNat = p.toNat / 2 ^ start % 2 ^ len := by
  rw [BitVec.extractLsb'_toNat, Nat.shiftRight_eq_div_pow]

theorem Straps.ofPins_station (p : BitVec 17) : (Straps.ofPins p).station.toNat = p.toNat / 4096 := by
  have bound := p.isLt
  simp only [Straps.ofPins, extractLsb'_toNat_of_lt]
  omega

theorem Mbr.entry_reset (x : Nat) : Mbr.reset.entry x = RosterEntry.absent := by
  simp only [Mbr.entry, Mbr.reset, Mbr.emptyRoster, List.getD_eq_getElem?_getD, List.getElem?_replicate]
  split <;> rfl

/-- Settles O4: a release from asserted builds every block's reset state; one from live asserts first. -/
theorem resetReleaseLatchesAndStartsEveryBlock : Obligations.ResetReleaseLatchesAndStartsEveryBlock := by
  intro pins busy s
  refine ⟨fun asserted => ?_, fun live t hassert => ?_⟩
  · refine ⟨s.putStation (Station.released (Straps.ofPins pins) busy s.mem s.free), ?_, rfl,
      Straps.ofPins_station pins, extractLsb'_toNat_of_lt pins, extractLsb'_toNat_of_lt pins,
      extractLsb'_toNat_of_lt pins, extractLsb'_toNat_of_lt pins, ?_, ?_⟩
    · rw [exec_release, Station.releaseReset_of_asserted pins busy asserted]
    · exact (extractLsb'_toNat_of_lt pins).trans (by simp)
    · refine ⟨rfl, rfl, rfl, rfl, rfl, rfl, rfl, rfl, Mbr.entry_reset, rfl, rfl, rfl, rfl, rfl, rfl,
        fun b => ?_, rfl, rfl, rfl, rfl, rfl, rfl, rfl, rfl, rfl, rfl, rfl, rfl, rfl, rfl, rfl, rfl, rfl,
        rfl, rfl, rfl, rfl, fun c => ?_, rfl, fun _ => rfl, rfl⟩
      · cases b <;> rfl
      · cases c <;> rfl
  · have asserts : exec .resetAssert s = .next (s.putStation s.toStation.assertReset) := onLive_live live
    obtain rfl := Host.Outcome.next.inj (asserts.symm.trans hassert)
    rw [exec_release, exec_release, Station.releaseReset_of_live pins busy live]
    rfl

/-- Settles O5: the release of low pins over an empty memory, and the soundness of every released station. -/
theorem stateResetIsTheStateAfterRelease : Obligations.StateResetIsTheStateAfterRelease := by
  refine ⟨fun s asserted mem free pending => ?_, Station.sound_released _ _ _ rfl⟩
  rw [exec_release, Station.releaseReset_of_asserted 0 false asserted, mem, free, State.putStation, pending]
  rfl

end Sys2Proof.Machine
end

section
/-! PROOF. The bus: the offer, arbitration, and what a station decides at the check code (chapter 1). -/

namespace Sys2Proof

/-! ## The table of kinds (R4) -/

theorem Kind.mem_all (k : Kind) : k ∈ Kind.all := by
  cases k <;> decide

theorem Kind.ofCode_code (k : Kind) : Kind.ofCode k.code = some k := by
  cases k <;> rfl

theorem Kind.ofCode_eq_some {c : Byte} {k : Kind} (h : Kind.ofCode c = some k) : k.code = c := by
  have found := List.find?_some h
  exact eq_of_beq found

theorem isUnknownKind_code (k : Kind) (w : Byte) : isUnknownKind k.code w = !k.fits w := by
  simp [isUnknownKind, Kind.ofCode_code]

theorem Kind.cls_lt (k : Kind) : k.cls < 4 := by
  cases k <;> decide

/-- A kind is unknown exactly when no listed kind has its code and fits its word. -/
theorem isUnknownKind_iff (code w : Byte) :
    isUnknownKind code w = true ↔ ¬∃ k : Kind, k.code = code ∧ k.fits w = true := by
  constructor
  · rintro unknown ⟨k, rfl, fits⟩
    simp [isUnknownKind_code, fits] at unknown
  · intro h
    unfold isUnknownKind
    split
    · rfl
    · next k hk =>
      have fits : k.fits w ≠ true := fun fits => h ⟨k, Kind.ofCode_eq_some hk, fits⟩
      simpa using fits

/-- A row of the table of kinds: the code, the class, and the least and greatest sender (R4, 11.2). -/
def Kind.row (k : Kind) : Byte × Nat × Nat × Nat :=
  (k.code, k.cls, if k.cls = 3 then 32 else 0,
    if k.cls = 3 ∨ k = .wallReset ∨ k = .orderLeave ∨ k = .orderRejoin ∨ k = .drop then 63 else 31)

theorem wordClass_eq (w : Byte) : wordClass w = w.toNat / 64 := by
  simp [wordClass, BitVec.toNat_ushiftRight, Nat.shiftRight_eq_div_pow]

theorem wordParty_eq (w : Byte) : wordParty w = w.toNat % 64 := by
  simp only [wordParty, BitVec.toNat_and]
  exact Nat.and_two_pow_sub_one_eq_mod w.toNat 6

theorem Kind.senderFits_iff (k : Kind) (p : Nat) :
    k.senderFits p = true ↔ k.row.2.2.1 ≤ p ∧ p ≤ k.row.2.2.2 := by
  cases k <;> simp [Kind.senderFits, Kind.row, Kind.cls]

theorem Kind.fits_iff (k : Kind) (w : Byte) :
    k.fits w = true ↔ k.row.2.1 = w.toNat / 64 ∧ k.row.2.2.1 ≤ w.toNat % 64 ∧ w.toNat % 64 ≤ k.row.2.2.2 := by
  rw [Kind.fits, Bool.and_eq_true, beq_iff_eq, k.senderFits_iff, wordClass_eq, wordParty_eq]
  rfl

theorem unknownKind_table (code w : Byte) :
    isUnknownKind code w = true ↔ ¬∃ row ∈ Kind.all.map Kind.row,
      row.1 = code ∧ row.2.1 = w.toNat / 64 ∧ row.2.2.1 ≤ w.toNat % 64 ∧ w.toNat % 64 ≤ row.2.2.2 := by
  rw [isUnknownKind_iff]
  refine not_congr ⟨fun ⟨k, code, fits⟩ => ?_, fun ⟨row, mem, code, fits⟩ => ?_⟩
  · exact ⟨k.row, List.mem_map_of_mem k.mem_all, code, k.fits_iff w |>.mp fits⟩
  · obtain ⟨k, -, rfl⟩ := List.mem_map.mp mem
    exact ⟨k, code, (k.fits_iff w).mpr fits⟩

end Sys2Proof

namespace Sys2Proof.Machine

/-! ## The offer (R11) -/

theorem offerFirst_eq {c : Nat} {q : List TxEntry} (h : ∃ e ∈ q, e.cls = c) :
    ∃ before e after, q = before ++ e :: after ∧ e.cls = c ∧
      offerFirst c q = before ++ { e with status := .offer } :: after ∧ ∀ d ∈ before, d.cls ≠ c := by
  induction q with
  | nil => simp at h
  | cons d q ih =>
    by_cases hd : d.cls = c
    · exact ⟨[], d, q, rfl, hd, by simp [offerFirst, hd], by simp⟩
    · obtain ⟨before, e, after, hq, he, offered, others⟩ := ih (by simpa [hd] using h)
      refine ⟨d :: before, e, after, by rw [hq]; rfl, he, by simp [offerFirst, hd, offered], fun x hx => ?_⟩
      rcases List.mem_cons.mp hx with rfl | old
      · exact hd
      · exact others x old

theorem foldl_min_le (q : List TxEntry) (n : Nat) :
    q.foldl (fun c e => min c e.cls) n ≤ n ∧ ∀ e ∈ q, q.foldl (fun c e => min c e.cls) n ≤ e.cls := by
  induction q generalizing n with
  | nil => simp
  | cons d q ih =>
    obtain ⟨start, all⟩ := ih (min n d.cls)
    refine ⟨Nat.le_trans start (Nat.min_le_left _ _), fun e he => ?_⟩
    rcases List.mem_cons.mp he with rfl | old
    · exact Nat.le_trans start (Nat.min_le_right _ _)
    · exact all e old

theorem foldl_min_attained (q : List TxEntry) (n : Nat) :
    q.foldl (fun c e => min c e.cls) n = n ∨ ∃ e ∈ q, e.cls = q.foldl (fun c e => min c e.cls) n := by
  induction q generalizing n with
  | nil => simp
  | cons d q ih =>
    rcases ih (min n d.cls) with start | ⟨e, he, least⟩
    · rw [List.foldl_cons, start]
      rcases Nat.le_total n d.cls with below | above
      · exact .inl (Nat.min_eq_left below)
      · exact .inr ⟨d, List.mem_cons_self, (Nat.min_eq_right above).symm⟩
    · exact .inr ⟨e, List.mem_cons_of_mem _ he, least⟩

/-- The lowest class of a queue is the class of one of its entries. -/
theorem lowestClass_attained {q : List TxEntry} (h : q ≠ []) : ∃ e ∈ q, e.cls = lowestClass q := by
  rcases foldl_min_attained q 4 with start | least
  · obtain ⟨e, q', rfl⟩ := List.exists_cons_of_ne_nil h
    have below := (foldl_min_le (e :: q') 4).2 e List.mem_cons_self
    have bound := e.msg.kind.cls_lt
    rw [start] at below
    exact absurd (Nat.lt_of_le_of_lt below bound) (Nat.lt_irrefl 4)
  · exact least

theorem lowestClass_le {q : List TxEntry} {e : TxEntry} (h : e ∈ q) : lowestClass q ≤ e.cls :=
  (foldl_min_le q 4).2 e h

/-- The oldest entry of the lowest class is offered. -/
theorem offerFirst_lowestClass {q : List TxEntry} (h : q ≠ []) :
    ∃ before e after, q = before ++ e :: after ∧
      offerFirst (lowestClass q) q = before ++ { e with status := .offer } :: after ∧
      (∀ d ∈ before, e.msg.kind.cls < d.msg.kind.cls) ∧ ∀ d ∈ after, e.msg.kind.cls ≤ d.msg.kind.cls := by
  obtain ⟨before, e, after, hq, he, offered, others⟩ := offerFirst_eq (lowestClass_attained h)
  have least : ∀ d ∈ q, e.cls ≤ d.cls := fun d hd => he ▸ lowestClass_le hd
  refine ⟨before, e, after, hq, offered, fun d hd => ?_, fun d hd => ?_⟩
  · exact Nat.lt_of_le_of_ne (least d (by simp [hq, hd])) fun same => others d hd (same.symm.trans he)
  · exact least d (by simp [hq, hd])

theorem Tbi.chooseOffer_of_offer {t : Tbi} (h : ∃ e ∈ t.queue, e.status = .offer) : t.chooseOffer = t := by
  obtain ⟨e, he, offered⟩ := h
  exact if_pos (List.any_eq_true.mpr ⟨e, he, by simp [offered]⟩)

theorem Tbi.chooseOffer_of_none {t : Tbi} (h : ∀ e ∈ t.queue, e.status ≠ .offer) :
    t.chooseOffer = { t with queue := offerFirst (lowestClass t.queue) t.queue } := by
  refine if_neg fun some => ?_
  obtain ⟨e, he, offered⟩ := List.any_eq_true.mp some
  exact h e he (by simpa using offered)

theorem Tbi.idle_of_quiet {t : Tbi} (hr : t.receiving = none) (hs : t.sending = none) :
    t.idle = { t.chooseOffer with contending := !t.queue.isEmpty, inStep := true } := by
  simp [Tbi.idle, hr, hs]

theorem Tbi.chooseOffer_eq (t : Tbi) : t.chooseOffer = { t with queue := t.chooseOffer.queue } := by
  unfold Tbi.chooseOffer
  split <;> rfl

/-- Settles O7: the offer chosen at an idle bus is the first entry of the queue's lowest class. -/
theorem busIdleChoosesTheOffer : Obligations.BusIdleChoosesTheOffer := by
  intro s live hr hs
  have idle := Tbi.idle_of_quiet hr hs
  refine ⟨s.putStation (s.toStation.onTbi Tbi.idle), onLive_live live, ?_, ?_, fun offered => ?_,
    fun unoffered hq => ?_, .of_touches (touches_onTbi _ _)⟩
  · rw [State.putStation_toStation, Station.onTbi_tbi, idle]
  · rw [State.putStation_toStation, Station.onTbi_tbi, idle, Tbi.chooseOffer_eq]
  · rw [State.putStation_toStation, Station.onTbi_tbi, idle, Tbi.chooseOffer_of_offer offered]
  · rw [State.putStation_toStation, Station.onTbi_tbi, idle, Tbi.chooseOffer_of_none unoffered]
    exact offerFirst_lowestClass hq

/-! ## Arbitration (R2, R12, R179) -/

/-- The arbitration word is the class in the high bits and the party number below (R183). -/
theorem arbWord_toNat (k : Kind) {p : Nat} (hp : p < 64) : (arbWord k.cls p).toNat = 64 * k.cls + p := by
  have bound := k.cls_lt
  rw [arbWord, BitVec.toNat_ofNat, Nat.mod_eq_of_lt (by omega)]

theorem Station.number_lt (s : Station) : s.number < 32 := s.straps.station.isLt

theorem Station.arbitrate_of_offer {s : Station} {e : TxEntry} (others : List Byte)
    (hc : s.tbi.contending = true) (he : s.tbi.queue.find? (fun d => d.status == .offer) = some e) :
    s.arbitrate others =
      if ∃ o ∈ others, o.toNat < 64 * e.msg.kind.cls + s.number then
        s.onTbi fun t => { t with contending := false }
      else s.winArbitration e := by
  have word : (arbWord e.cls s.number).toNat = 64 * e.msg.kind.cls + s.number :=
    arbWord_toNat _ (Nat.lt_trans s.number_lt (by decide))
  simp only [Station.arbitrate, hc, he, if_true, word, List.any_eq_true, decide_eq_true_eq]

theorem Station.winArbitration_tbi (e : TxEntry) (s : Station) :
    (s.winArbitration e).tbi = s.tbi.win (s.assemble e.msg) := by
  unfold Station.winArbitration
  dsimp only
  split <;> rfl

theorem Station.winArbitration_stu (e : TxEntry) (s : Station) :
    (s.winArbitration e).stu = if e.msg.clears then { s.stu with counters := {} } else s.stu := by
  unfold Station.winArbitration TxMsg.clears
  cases e.msg with
  | statusReport q clear => cases clear <;> rfl
  | _ => rfl

theorem Counters.get_zero (c : Counter) : ({} : Counters).get c = 0 := by
  cases c <;> rfl

/-- Settles O8: the contest is between words as numbers; the win fixes the message and may zero the counters. -/
theorem arbitrationLosesOrSendsTheOffer : Obligations.ArbitrationLosesOrSendsTheOffer := by
  intro others s e live hc he
  have contest := Station.arbitrate_of_offer others hc he
  refine ⟨fun lower => ?_, fun least => ?_⟩
  · rw [if_pos lower] at contest
    exact ⟨s.putStation (s.toStation.onTbi fun t => { t with contending := false }),
      (onLive_live live).trans (by rw [contest]; rfl), rfl, .of_touches (touches_onTbi _ _)⟩
  · rw [if_neg fun ⟨o, ho, lower⟩ => absurd (least o ho) (Nat.not_le.mpr lower)] at contest
    have stu := s.toStation.winArbitration_stu e
    refine ⟨s.putStation (s.toStation.winArbitration e), s.toStation.assemble e.msg,
      (onLive_live live).trans (by rw [contest]; rfl), Station.winArbitration_tbi e _, ?_, ?_, ?_,
      .of_touches (touches_winArbitration _ e)⟩
    · cases e.msg <;> rfl
    · rw [State.putStation_toStation, stu]
      split <;> rfl
    · intro c
      rw [State.putStation_toStation, stu]
      split
      · exact Counters.get_zero c
      · rfl

/-! ## Unknown kinds and damage (R4, R5, R184) -/

/-- Settles O9: the table is the list of the kinds' rows, and an unknown kind is counted at its verdict. -/
theorem unknownKindIsDamaged : Obligations.UnknownKindIsDamaged := by
  refine ⟨unknownKind_table, fun code h v s ht hs _ => ?_⟩
  refine ⟨s.putStation ((s.toStation.count .damageMarked).onTbi Tbi.passedBy), ?_, rfl, rfl,
    .of_touches (.step (touches_count _ _) (touches_onTbi _ _) (by decide) (by decide))⟩
  refine (onLive_live ht.1).trans ?_
  rw [Station.unknownMessage_whole v ht, hs]
  rfl

theorem readMessage_of_damage {k : Kind} {h : Heard}
    (damage : h.check ≠ crc ([h.word, k.code, hi8 h.len, lo8 h.len] ++ h.body) ∨
      h.body.length ≠ h.len.toNat ∨ isUnknownKind k.code h.word = true ∨ readBody k h.body = none) :
    readMessage k h = none := by
  unfold readMessage
  split
  · next sound =>
    obtain ⟨check, length, fits⟩ := sound
    rcases damage with d | d | d | d
    · exact absurd check d
    · exact absurd length d
    · simp [isUnknownKind_code, fits] at d
    · exact d
  · rfl

/-- Settles O10: each ground leaves no message to read, and a damaged one goes by with its count alone. -/
theorem damagedMessageIsOnlyCounted : Obligations.DamagedMessageIsOnlyCounted := by
  intro k h v s ht damage
  have unread := readMessage_of_damage damage
  refine ⟨⟨_, exec_checkCode ht, ?_, ?_⟩, fun hs => ?_⟩
  · rw [Station.hear_damaged ht _ unread]
    rfl
  · rw [Station.hear_damaged ht _ unread]
    exact .of_touches (touches_hearDamaged _ _ _)
  · refine ⟨s.putStation ((s.toStation.count .damageMarked).onTbi Tbi.passedBy), ?_, rfl, rfl,
      .of_touches (.step (touches_count _ _) (touches_onTbi _ _) (by decide) (by decide))⟩
    rw [exec_commandOf, onLive_live ht.1, Station.message_damaged _ _ v ht unread, hs]
    rfl

/-! ## Void messages, and messages in two events (R8) -/

theorem slotsClear_eq_false {v : Slots} (h : v.refusals ≠ 0 ∨ v.damage = true) : slotsClear v = false := by
  rcases h with h | h
  · exact Bool.and_eq_false_imp.mpr fun clear => absurd (eq_of_beq clear) h
  · simp [slotsClear, h]

theorem stationBit_ne_zero {x : Nat} (h : x < 32) : stationBit x ≠ 0 := fun zero => by
  have bit := congrArg (fun v : StationSet => v.getLsbD x) zero
  simp [stationBit, h] at bit

theorem Receiving.slots_void {r : Receiving} {n : Nat} {v : Slots} (hn : n < 32)
    (h : v.refusals ≠ 0 ∨ v.damage = true ∨ r.refused = true ∨ r.message = none) :
    slotsClear (r.slots n v) = false := by
  have bit := stationBit_ne_zero hn
  apply slotsClear_eq_false
  simp only [Receiving.slots]
  rcases h with h | h | h | h
  · refine .inl fun zero => h ?_
    exact (BitVec.or_eq_zero_iff.mp zero).1
  · simp [h]
  · refine .inl fun zero => bit ?_
    simpa [h] using (BitVec.or_eq_zero_iff.mp zero).2
  · simp [h]

/-- Settles O11: a slot is set, so nothing stands, and the message in hand is over. -/
theorem voidMessageReachesNoBlock : Obligations.VoidMessageReachesNoBlock := by
  intro k r v s live hr hk own void
  have slots := Receiving.slots_void s.toStation.number_lt void
  refine ⟨s.putStation (s.toStation.closeReceiving r), ?_, ?_, ?_, .of_touches (touches_closeReceiving _ r)⟩
  · rw [exec_commandOf, onLive_live live]
    simp [Station.message, Station.verdict, hr, hk, slots, own, State.putStation]
  · rw [State.putStation_toStation, Station.closeReceiving]
    split <;> rfl
  · rw [State.putStation_toStation, Station.closeReceiving]
    cases r.message <;> rfl

/-- Settles O12: the two events of a message, on a live station and on an asserted one. -/
theorem wholeMessageIsCheckCodeThenVerdict : Obligations.WholeMessageIsCheckCodeThenVerdict := by
  intro k h v s t hr first
  rw [exec_commandOf] at first ⊢
  rw [exec_commandOf]
  cases asserted : s.resetAsserted with
  | true =>
    rw [onLive_asserted asserted] at first
    obtain rfl := Host.Outcome.next.inj first
    rw [onLive_asserted asserted, onLive_asserted asserted]
  | false =>
    rw [onLive_live asserted] at first
    obtain rfl := Host.Outcome.next.inj first
    have live : (s.toStation.message k (decideOf k) (standsOf k) (.checkCode h)).resetAsserted = false :=
      ((touches_hear _ k (decideOf k) h) .reset (by decide)).trans asserted
    rw [onLive_live asserted, onLive_live live, Station.message_whole hr]

/-! ## What no station refuses (R6) -/

theorem decideOf_eq_passes {k : Kind}
    (hk : k ∉ [Kind.join, .suspect, .openFrame, .closeFrame, .fill, .run, .readRequest]) :
    decideOf k = passes := by
  revert hk
  cases k <;> first | exact fun _ => rfl | exact fun hk => absurd hk (by decide)

/-- Where no decision can refuse a message it is taken in hand with nothing set aside. -/
theorem Station.hear_undecided {s : Station} {k : Kind} {h : Heard} {m : Message} (ht : s.takes)
    (hm : readMessage k h = some m)
    (free : s.mbr.state ≠ .member ∨ s.tbi.sending.isSome = true ∨ decideOf k = passes) :
    s.hear k (decideOf k) h =
      s.onTbi (Tbi.receive (passedRecord k h m s.tbi.sending.isSome .nothing)) := by
  simp only [Station.hear, Tbi.canHear_of_takes ht, hm, if_true, Station.hearUndamaged]
  split
  · next decides =>
    rcases free with out | own | pass
    · exact absurd decides.2 out
    · exact absurd (own.symm.trans decides.1) (by simp)
    · rw [pass]
      rfl
  · rfl

/-- Settles O13: outside MEMBER, of an own message and of an unlisted kind nothing is decided. -/
theorem whatNoStationRefuses : Obligations.WhatNoStationRefuses := by
  intro k h m s ht hm free
  have heard := Station.hear_undecided ht hm (free.imp_right (Or.imp_right decideOf_eq_passes))
  refine ⟨_, exec_checkCode ht, ?_, ?_⟩
  · rw [heard]
    rfl
  · rw [heard]
    exact .of_touches (touches_onTbi _ _)

end Sys2Proof.Machine
end

section
/-! PROOF. The void of an own message by its kind, withdrawals, and the own JOIN (R17, R18, R30, R31, R48). -/

namespace Sys2Proof.Machine

/-! ## The own void by its kind (R17) -/

/-- The bus interface after an own void that keeps the entry, with the streak below its limit (R17, R18). -/
def Tbi.voidKept (damage : Bool) (t : Tbi) : Tbi :=
  { t with
    queue := (t.queue.map fun d => if d.status = .sending then { d with status := .waiting } else d) ++
      t.heldEntry
    heldTick := none, sending := none
    voidStreak := if damage then t.voidStreak + 1 else t.voidStreak }

section
variable {s : Station} {e : TxEntry} {damage : Bool}

/-- The entries that an own void leaves in the queue, by the kind of the message (R17). -/
theorem Station.ownVoid_kept (hi : s.tbi.inTransmission = some e)
    (he : e.msg.kind ∈ [Kind.ready, .leave, .readReply, .statusReport])
    (hd : damage = true → s.tbi.voidStreak < 31) :
    s.ownVoid damage = (s.count .ownVoided).onTbi (Tbi.voidKept damage) := by
  have handled : (s.count .ownVoided).ownVoidKind e.msg = (s.count .ownVoided).onTbi Tbi.keepSent := by
    cases hm : e.msg <;> first | rfl | simp [hm, TxMsg.kind] at he
  rw [Station.ownVoid_of_inTransmission _ hi, handled, Station.streak_of_below]
  · simp [Station.onTbi, Tbi.enterHeldTick_eq, Tbi.keepSent, Tbi.heldEntry, Tbi.voidKept]
  · simpa [Tbi.enterHeldTick_eq, Tbi.keepSent] using hd

theorem Station.ownVoid_dropped (hi : s.tbi.inTransmission = some e)
    (he : e.msg.kind = .tick ∨ e.msg.kind = .beacon) (hd : damage = true → s.tbi.voidStreak < 31) :
    s.ownVoid damage = (s.count .ownVoided).onTbi (Tbi.voidDropped damage) := by
  have handled : (s.count .ownVoided).ownVoidKind e.msg = (s.count .ownVoided).onTbi Tbi.removeSent := by
    cases hm : e.msg <;> first | rfl | simp [hm, TxMsg.kind] at he
  rw [Station.ownVoid_of_inTransmission _ hi, handled, Station.streak_of_below]
  · simp [Station.onTbi, Tbi.enterHeldTick_eq, Tbi.removeSent, Tbi.heldEntry, Tbi.voidDropped, bne]
  · simpa [Tbi.enterHeldTick_eq, Tbi.removeSent] using hd

theorem Mbr.suspectVoid_eq (m : Mbr) :
    m.suspectVoid = { m with
      suspectOrigin := none
      tickWatch := if m.suspectOrigin = some .tickWatch then 0 else m.tickWatch
      roster := match m.suspectOrigin with
        | some (.beaconWatch x) => m.roster.set x { m.entry x with watch := 0 }
        | _ => m.roster } := by
  obtain ⟨_, _, _, _, _, _, _, origin⟩ := m
  cases origin with
  | none => rfl
  | some origin => cases origin <;> rfl

end

/-- The station at an own void: DAMAGE_MARKED counted where it marked the message, the bus gone by. -/
def Station.voided (s : Station) (marked : Bool) : Station :=
  (if marked then s.count .damageMarked else s).onTbi Tbi.passedBy

section
variable {s : Station} (marked : Bool)

theorem Station.voided_tbi : (s.voided marked).tbi = s.tbi.passedBy := by
  cases marked <;> rfl

theorem Station.voided_mbr : (s.voided marked).mbr = s.mbr := by
  cases marked <;> rfl

theorem Station.voided_count_stu : ((s.voided marked).count .ownVoided).stu = Stu.ownVoided marked s.stu := by
  cases marked <;> rfl

theorem touches_voided : Touches [.tbi, .stu] s ((s.voided marked).count .ownVoided) := by
  refine .step (l₁ := [.tbi, .stu]) ?_ (touches_count _ _) (by decide) (by decide)
  exact .step (.ite (touches_count .damageMarked s) (.refl [.stu] s)) (touches_onTbi _ _) (by decide) (by decide)

end

/-- Settles O14: the kinds that stay, the kinds that go, and the SUSPECT with its watch. -/
theorem ownVoidIsHandledByKind : Obligations.OwnVoidIsHandledByKind := by
  intro c e marked damage s ho notJoin below
  have sent : (s.voided marked).tbi.inTransmission = some e := by
    rw [Station.voided_tbi]
    exact ho.2.2.1
  have under : damage = true → (s.voided marked).tbi.voidStreak < 31 := by
    rwa [Station.voided_tbi]
  have stays {f : Tbi → Tbi} : Touches [.tbi, .stu, .mbr] s.toStation
      (((s.voided marked).count .ownVoided).onTbi f) :=
    .step (touches_voided marked) (touches_onTbi f _) (by decide) (by decide)
  by_cases keeps : e.msg.kind ∈ [Kind.ready, .leave, .readReply, .statusReport]
  · have notSuspect : e.msg.kind ≠ .suspect := fun h => by simp [h] at keeps
    refine ⟨s.putStation (((s.voided marked).count .ownVoided).onTbi (Tbi.voidKept damage)), ?_, ?_,
      Station.voided_count_stu marked, fun _ => Station.voided_mbr marked, fun h => absurd h notSuspect,
      .of_touches stays⟩
    · rw [exec_ownVoids ho, ← Station.ownVoid_kept sent keeps under]
      rfl
    · rw [State.putStation_toStation, Station.onTbi_tbi, Station.count_tbi, Station.voided_tbi, if_pos keeps]
      rfl
  · rw [if_neg keeps]
    by_cases suspect : e.msg.kind = .suspect
    · have named : ∃ x, e.msg = .suspect x := by
        cases hm : e.msg <;> first | exact ⟨_, rfl⟩ | simp [hm, TxMsg.kind] at suspect
      obtain ⟨x, hx⟩ := named
      refine ⟨s.putStation ((((s.voided marked).count .ownVoided).onTbi (Tbi.voidDropped damage)).onMbr
        Mbr.suspectVoid), ?_, ?_, Station.voided_count_stu marked, fun h => absurd suspect h, fun _ => ?_,
        .of_touches (stays.also (touches_onMbr _ _) (by decide))⟩
      · rw [exec_ownVoids ho, ← Station.ownVoid_suspect sent hx under]
        rfl
      · rw [State.putStation_toStation, Station.onMbr_tbi, Station.onTbi_tbi, Station.count_tbi,
          Station.voided_tbi]
        rfl
      · rw [State.putStation_toStation, Station.onMbr_mbr, Station.onTbi_mbr, Station.count_mbr,
          Station.voided_mbr]
        refine (Mbr.suspectVoid_eq _).trans ?_
        cases s.mbr.suspectOrigin with
        | none => rfl
        | some origin => cases origin <;> rfl
    · have dropped : e.msg.kind = .tick ∨ e.msg.kind = .beacon := by
        cases hm : e.msg <;> simp_all [TxMsg.kind]
      refine ⟨s.putStation (((s.voided marked).count .ownVoided).onTbi (Tbi.voidDropped damage)), ?_, ?_,
        Station.voided_count_stu marked, fun _ => Station.voided_mbr marked, fun h => absurd h suspect,
        .of_touches stays⟩
      · rw [exec_ownVoids ho, ← Station.ownVoid_dropped sent dropped under]
        rfl
      · rw [State.putStation_toStation, Station.onTbi_tbi, Station.count_tbi, Station.voided_tbi]
        rfl

/-! ## Withdrawals (R21, R48, R70, R71) -/

theorem BufDesc.withdraw_eq (shown : Option Buf) (b : Buf) (d : BufDesc) :
    d.withdraw shown b =
      if shown = some b then { d with state := .heldImage, frame := none }
      else if d.state = .bound ∨ (d.state = .heldImage ∧ shown.isSome = true) then d.released
      else d := by
  unfold BufDesc.withdraw
  split
  · rfl
  · by_cases bound : d.state = .bound <;> simp [bound, BufDesc.release_eq]

theorem Burst.withdraw_eq (b : Burst) :
    b.withdraw = { b with dropped := b.dropped || (b.work.requester != .scan && b.work.requester != .mref) } := by
  obtain ⟨w, d⟩ := b
  cases w <;> simp [Burst.withdraw, BurstWork.requester]

theorem Ftc.withdraw_get (t : Ftc) (b : Buf) :
    t.withdraw.buffers.get b =
      (t.buffers.get b).withdraw ((t.records.find? fun r => r.state == .shown).map (·.buffer)) b := by
  cases b <;> rfl

/-- A withdrawal of a station that differs from an earlier one in its bus interface and membership unit alone. -/
theorem withdrawn_of_touches {dest : StationState} {s : State} {u : Station} (h : Touches [.tbi, .mbr] s.toStation u)
    (receiving : u.tbi.receiving = none) (inStep : u.tbi.inStep = true) :
    Withdrawn dest s (s.putStation (u.withdraw dest)) := by
  have ftc := h.ftc (by decide)
  have mar := h.mar (by decide)
  exact {
    tbi := by
      rw [State.putStation_toStation]
      simp [Station.withdraw, Tbi.withdraw, receiving, inStep]
    mbr := rfl
    frames := ⟨rfl, rfl, rfl, show u.ftc.refresh = s.ftc.refresh by rw [ftc]⟩
    buffers := fun b => by
      rw [State.putStation_toStation]
      simp only [Station.withdraw, Station.setPendingReport_ftc, Station.count_ftc]
      rw [ftc, Ftc.withdraw_get, BufDesc.withdraw_eq]
      rfl
    work := ⟨rfl, rfl, rfl⟩
    arbiter := by
      rw [State.putStation_toStation]
      simp only [Station.withdraw, Station.setPendingReport_mar, Station.count_mar, mar]
      congr 1
      cases s.mar.burst with
      | none => rfl
      | some b => rw [Option.map_some, Option.map_some, Burst.withdraw_eq]
    counted := by
      rw [State.putStation_toStation, ← h.stu (by decide)]
      rfl
    rest := .of_touches (h.step (touches_withdraw u dest) (by decide) (by decide)) }

theorem Tbi.keeps_bus_ownVoidKind (m : TxMsg) (s : Station) :
    (s.ownVoidKind m).tbi.receiving = s.tbi.receiving ∧ (s.ownVoidKind m).tbi.inStep = s.tbi.inStep ∧
      (s.ownVoidKind m).tbi.voidStreak = s.tbi.voidStreak := by
  unfold Station.ownVoidKind
  split <;> try exact ⟨rfl, rfl, rfl⟩
  unfold Station.joinVoid
  (repeat' split) <;> exact ⟨rfl, rfl, rfl⟩

/-- The streak's last void is a withdrawal, whatever the kind (R19). -/
theorem Station.ownVoid_of_limit {s : Station} {e : TxEntry} (hi : s.tbi.inTransmission = some e)
    (limit : s.tbi.voidStreak = 31) :
    s.ownVoid true = (((s.count .ownVoided).ownVoidKind e.msg).onTbi Tbi.enterHeldTick).withdraw .listening := by
  obtain ⟨-, -, streak⟩ := Tbi.keeps_bus_ownVoidKind e.msg (s.count .ownVoided)
  rw [Station.ownVoid_of_inTransmission _ hi]
  simp [Station.streak, Tbi.enterHeldTick_eq, streak, limit]

/-- Settles O15: whatever the kind's handling did to the bus and the membership unit, the withdrawal follows. -/
theorem busFaultWithdrawsTheStation : Obligations.BusFaultWithdrawsTheStation := by
  intro c e marked s ho limit
  have sent : (s.voided marked).tbi.inTransmission = some e := by
    rw [Station.voided_tbi]
    exact ho.2.2.1
  have full : (s.voided marked).tbi.voidStreak = 31 := by
    rwa [Station.voided_tbi]
  have fault := Station.ownVoid_of_limit sent full
  let counted : State := { s with stu := Stu.ownVoided marked s.stu }
  have handled : Touches [.tbi, .mbr] counted.toStation
      ((((s.voided marked).count .ownVoided).ownVoidKind e.msg).onTbi Tbi.enterHeldTick) := by
    have base : Touches [.tbi, .mbr] counted.toStation ((s.voided marked).count .ownVoided) := by
      intro b hb
      cases marked <;> cases b <;> first | exact absurd hb (by decide) | rfl | exact fun _ => rfl
    exact (base.trans (touches_ownVoidKind _ _)).also (touches_onTbi _ _) (by decide)
  obtain ⟨receiving, inStep, -⟩ := Tbi.keeps_bus_ownVoidKind e.msg ((s.voided marked).count .ownVoided)
  refine ⟨counted.putStation (((((s.voided marked).count .ownVoided).ownVoidKind e.msg).onTbi
    Tbi.enterHeldTick).withdraw .listening), ?_, withdrawn_of_touches handled ?_ ?_⟩
  · rw [exec_ownVoids ho, ← fault]
    rfl
  · rw [Station.onTbi_tbi, Tbi.enterHeldTick_receiving, receiving, Station.count_tbi, Station.voided_tbi]
    exact ho.1.2.2
  · rw [Station.onTbi_tbi, Tbi.enterHeldTick_eq]
    exact inStep.trans (by rw [Station.count_tbi, Station.voided_tbi]; exact ho.1.2.1)

/-- Settles O22: both messages stand with no message in hand any more, and withdraw. -/
theorem wallResetAndOwnLeaveWithdraw : Obligations.WallResetAndOwnLeaveWithdraw := by
  refine ⟨fun h s ho => ?_, fun h e s ho => ?_⟩
  · exact ⟨_, exec_passedStands (k := .wallReset) ho rfl,
      withdrawn_of_touches (u := s.toStation.onTbi Tbi.passedBy) ((touches_onTbi _ _).mono (by decide))
        ho.1.2.2 ho.1.2.1⟩
  · exact ⟨_, exec_ownStands (k := .leave) ho,
      withdrawn_of_touches (u := s.toStation.onTbi Tbi.ownPassed) ((touches_onTbi _ _).mono (by decide))
        ho.1.2.2 ho.1.2.1⟩

/-! ## The own JOIN (R30, R31) -/

/-- Settles O17: the own JOIN adds the own entry and sets every watch to 0. -/
theorem ownJoinAdmitsTheStation : Obligations.OwnJoinAdmitsTheStation := by
  intro h tile e s ho
  refine ⟨_, exec_ownStands (k := .join) ho, rfl, rfl, rfl, ?_⟩
  exact .of_touches (.step (touches_onTbi _ _) (touches_joinStands _ _) (by decide) (by decide))

theorem TxMsg.isJoin_eq (m : TxMsg) : m.isJoin = (m.kind == .join) := by
  cases m <;> rfl

/-- A void JOIN below the last retry waits (R31). -/
theorem Station.ownVoid_join {s : Station} {e : TxEntry} {damage : Bool} (hi : s.tbi.inTransmission = some e)
    (he : e.msg.kind = .join) (joining : s.mbr.state = .joining) (hd : damage = true → s.tbi.voidStreak < 31) :
    s.ownVoid damage = ((s.count .ownVoided).onMbr fun m =>
        if m.retryCount < 15 then { m with retryCount := m.retryCount + 1, joinWait := 4 } else m.turnedAway).onTbi
      fun t => { t with
        queue := (t.queue.filter fun d =>
          d.status != .sending && (decide (s.mbr.retryCount < 15) || d.msg.kind != .join)) ++ t.heldEntry
        heldTick := none, sending := none
        voidStreak := if damage then t.voidStreak + 1 else t.voidStreak } := by
  have named : ∃ b, e.msg = .join b := by
    cases hm : e.msg <;> first | exact ⟨_, rfl⟩ | simp [hm, TxMsg.kind] at he
  obtain ⟨b, hb⟩ := named
  have below : damage = true → (((s.count .ownVoided).ownVoidKind e.msg).onTbi
      Tbi.enterHeldTick).tbi.voidStreak < 31 := by
    obtain ⟨-, -, streak⟩ := Tbi.keeps_bus_ownVoidKind e.msg (s.count .ownVoided)
    simpa [Tbi.enterHeldTick_eq, streak] using hd
  rw [Station.ownVoid_of_inTransmission _ hi, Station.streak_of_below below, hb]
  by_cases more : s.mbr.retryCount < 15
  · have retry : s.mbr.retryCount + 1 < 16 := Nat.succ_lt_succ more
    simp [Station.ownVoidKind, Station.joinVoid, joining, retry, more, Station.onTbi, Station.onMbr,
      Tbi.enterHeldTick_eq, Tbi.removeSent, Tbi.heldEntry, Station.count, Station.onStu, bne]
  · have last : ¬s.mbr.retryCount + 1 < 16 := fun h => more (Nat.lt_of_succ_lt_succ h)
    simp [Station.ownVoidKind, Station.joinVoid, joining, last, more, Station.reject, Station.onTbi,
      Station.onMbr, Tbi.enterHeldTick_eq, Tbi.removeSent, Tbi.removeWaiting, Tbi.heldEntry, Station.count,
      Station.onStu, List.filter_filter, TxMsg.isJoin_eq, Mbr.turnedAway, Mbr.emptyRoster]
    refine List.filter_congr fun d _ => ?_
    cases hs : d.status == .sending <;> simp [bne, hs]

/-- Settles O18: a wait of 4 pulses below the 16th void, and REJECTED at it. -/
theorem voidJoinWaitsOrRejects : Obligations.VoidJoinWaitsOrRejects := by
  intro c e marked damage s ho he joining hd
  have sent : (s.voided marked).tbi.inTransmission = some e := by
    rw [Station.voided_tbi]
    exact ho.2.2.1
  have under : damage = true → (s.voided marked).tbi.voidStreak < 31 := by
    rwa [Station.voided_tbi]
  have state : (s.voided marked).mbr.state = .joining := by
    rwa [Station.voided_mbr]
  have void := Station.ownVoid_join sent he state under
  refine ⟨s.putStation ((s.voided marked).ownVoid damage), exec_ownVoids ho, ?_, ?_, ?_, .of_touches ?_⟩
  · rw [State.putStation_toStation, void]
    simp [Station.voided_mbr]
  · rw [State.putStation_toStation, void]
    simp [Station.voided_mbr, Station.voided_tbi, Tbi.passedBy, Tbi.heldEntry]
  · rw [State.putStation_toStation, void]
    exact Station.voided_count_stu marked
  · rw [void]
    exact ((touches_voided marked).step (touches_onMbr _ _) (l := [.tbi, .mbr, .stu]) (by decide) (by decide)).also
      (touches_onTbi _ _) (by decide)

end Sys2Proof.Machine
end

section
/-! PROOF. The roster follows the bus: JOIN, SUSPECT, LEAVE, BEACON, and the orders to leave (chapter 2). -/

namespace Sys2Proof.Machine

section
variable {s : Station}

/-! ## JOIN at a MEMBER (R33) -/

/-- A MEMBER adds a joiner, taking it first out of every record when it was listed. -/
theorem Station.hearJoin_of_member (x : Nat) (tile : Tile) (hs : s.mbr.state = .member) :
    s.hearJoin x tile =
      (s.onMbr fun m => { m with
        roster := m.roster.set x (RosterEntry.listed (some tile))
        holderRemoved := m.holderRemoved || (m.isMember x && m.dutyHolder == some x) }).onFtc
      fun t => if s.mbr.isMember x then { t with records := t.records.map (FrameRecord.without x) } else t := by
  simp only [Station.hearJoin, hs]
  cases listed : s.mbr.isMember x with
  | true =>
    simp [Station.removeStation, Station.onMbr, Station.onFtc, Mbr.lose, Mbr.remove, Mbr.add, Mbr.setEntry,
      Ftc.prune, listed, RosterEntry.listed]
    exact fun _ _ => rfl
  | false =>
    simp [Station.onMbr, Station.onFtc, Mbr.add, Mbr.setEntry, listed, RosterEntry.listed]

/-! ## A station lost at a MEMBER (R43, R45) -/

theorem TxMsg.isSuspectOf_eq (x : Nat) (m : TxMsg) : m.isSuspectOf x = (m == .suspect x) := by
  rw [Bool.eq_iff_iff, beq_iff_eq]
  cases m <;> simp [TxMsg.isSuspectOf, eq_comm (a := x)]

theorem Station.loseStation_of_unlisted {x : Nat} (hs : s.mbr.state = .member) (h : s.mbr.isMember x = false) :
    s.loseStation x = s := by
  simp [Station.loseStation, hs, h]

theorem Station.loseStation_of_listed {x : Nat} (hs : s.mbr.state = .member) (hx : x ≠ s.number)
    (h : s.mbr.isMember x = true) : s.loseStation x = (s.removeStation x).removeSuspect x := by
  simp [Station.loseStation, hs, hx, h]

theorem Station.removeSuspect_tbi (x : Nat) (s : Station) :
    (s.removeSuspect x).tbi = { s.tbi with queue := s.tbi.queue.filter fun d =>
      d.status == .sending || d.msg != .suspect x } := by
  have removed : s.tbi.removeWaiting (TxMsg.isSuspectOf x) = { s.tbi with
      queue := s.tbi.queue.filter fun d => d.status == .sending || d.msg != .suspect x } := by
    simp [Tbi.removeWaiting, TxMsg.isSuspectOf_eq, bne]
  unfold Station.removeSuspect
  dsimp only
  split <;> exact removed

/-- The origin of a removed SUSPECT goes with it, and nothing else of the unit (log 14). -/
theorem Station.removeSuspect_mbr (x : Nat) (s : Station) :
    ∃ o, (s.removeSuspect x).mbr = { s.mbr with suspectOrigin := o } ∧ (o = s.mbr.suspectOrigin ∨ o = none) := by
  unfold Station.removeSuspect
  dsimp only
  split
  · exact ⟨_, rfl, .inl rfl⟩
  · exact ⟨_, rfl, .inr rfl⟩

/-- What the loss of a station does at a MEMBER, listed or not. -/
theorem Station.loseStation_at_member {x : Nat} (hs : s.mbr.state = .member) (hx : x ≠ s.number) :
    (∃ o, (s.loseStation x).mbr = { s.mbr with
        roster := if s.mbr.isMember x then s.mbr.roster.set x RosterEntry.absent else s.mbr.roster
        suspectOrigin := o
        holderRemoved := s.mbr.holderRemoved || (s.mbr.isMember x && s.mbr.dutyHolder == some x) } ∧
      (o = s.mbr.suspectOrigin ∨ o = none)) ∧
    (s.loseStation x).ftc = (if s.mbr.isMember x then
      { s.ftc with records := s.ftc.records.map (FrameRecord.without x) } else s.ftc) ∧
    (s.loseStation x).tbi = (if s.mbr.isMember x then
      { s.tbi with queue := s.tbi.queue.filter fun d => d.status == .sending || d.msg != .suspect x }
      else s.tbi) := by
  cases listed : s.mbr.isMember x with
  | false =>
    rw [Station.loseStation_of_unlisted hs listed]
    exact ⟨⟨s.mbr.suspectOrigin, by simp, .inl rfl⟩, rfl, rfl⟩
  | true =>
    rw [Station.loseStation_of_listed hs hx listed]
    obtain ⟨o, mbr, origin⟩ := (s.removeStation x).removeSuspect_mbr x
    refine ⟨⟨o, ?_, origin⟩, (touches_removeSuspect _ x).ftc (by decide), Station.removeSuspect_tbi x _⟩
    rw [mbr]
    simp [Station.removeStation, Mbr.lose, Mbr.remove, Mbr.setEntry]

/-! ## The tentative roster (R27, R29) -/

theorem Station.reject_tbi (s : Station) :
    s.reject.tbi = { s.tbi with queue := s.tbi.queue.filter fun d =>
      d.status == .sending || d.msg.kind != .join } := by
  simp [Station.reject, Tbi.removeWaiting, TxMsg.isJoin_eq, bne]

theorem Station.preCheck_of_clash (hs : s.mbr.state = .joining) (h : s.clashes s.mbr.roster) :
    s.preCheck = s.reject :=
  if_pos ⟨hs, s.preCheckConflict_iff.mpr h⟩

theorem Station.preCheck_of_none (h : s.mbr.state ≠ .joining ∨ ¬s.clashes s.mbr.roster) : s.preCheck = s :=
  if_neg fun ⟨hs, clash⟩ => h.elim (fun out => out hs) fun free => free (s.preCheckConflict_iff.mp clash)

theorem Station.tryJoin_of_clash (h : s.clashes s.mbr.roster) : s.tryJoin = s.reject :=
  if_pos (s.preCheckConflict_iff.mpr h)

theorem Station.tryJoin_of_none (h : ¬s.clashes s.mbr.roster) :
    s.tryJoin = s.onTbi (Tbi.pushOnce (.join s.tileByte)) :=
  if_neg fun clash => h (s.preCheckConflict_iff.mp clash)

/-- A queue takes one entry of a kind (R13, R28). -/
theorem Tbi.pushOnce_eq (m : TxMsg) (t : Tbi) :
    t.pushOnce m = { t with queue :=
      if ∀ d ∈ t.queue, d.msg.kind ≠ m.kind then t.queue ++ [⟨m, .waiting⟩] else t.queue } := by
  have held : t.holds m.kind = true ↔ ¬∀ d ∈ t.queue, d.msg.kind ≠ m.kind := by
    simp [Tbi.holds, TxEntry.isKind]
  unfold Tbi.pushOnce
  split
  · next h => rw [if_neg (held.mp h)]
  · next h => rw [if_pos (Decidable.not_not.mp fun n => h (held.mpr n))]; rfl

end

/-- Settles O19: the joiner is listed anew, and what it was is taken out first. -/
theorem joinIsAddedOrReadmittedAtMember : Obligations.JoinIsAddedOrReadmittedAtMember := by
  intro h tile s ho hs free
  have pass : decideOf .join (wordParty h.word) (.join tile) s.toStation = .pass .nothing :=
    decideJoin_of_not_refusesJoin free
  have added := Station.hearJoin_of_member (s := s.toStation.onTbi Tbi.passedBy) (wordParty h.word)
    (tileBits tile) hs
  refine ⟨_, exec_memberStands (k := .join) ho hs pass, congrArg Station.tbi added,
    congrArg Station.mbr added, congrArg Station.ftc added, ?_⟩
  exact .of_touches (.step (touches_onTbi _ _) (touches_joinStands _ _) (by decide) (by decide))

/-- A command by which a MEMBER loses station x: what is left to do is the loss. -/
theorem exec_loses {k : Kind} {h : Heard} {m : Message} {x : Nat} {before : Tbi} {s : State}
    (hs : s.mbr.state = .member) (hx : x ≠ s.number)
    (command : (k = .suspect ∧ (∃ b : Byte, m = .suspect b ∧ x = b.toNat) ∧
        ((s.hearsOther k h m ∧ before = s.tbi.passedBy) ∨
          ((∃ e, s.hearsOwn k h m e) ∧ before = s.tbi.ownPassed))) ∨
      (k = .leave ∧ m = .leave ∧ x = wordParty h.word ∧ s.hearsOther k h m ∧
        before = s.tbi.passedBy)) :
    ∃ (u : Station) (o : Option SuspectOrigin), exec (commandOf k (.whole h .clear)) s =
        .next (s.putStation (u.loseStation x)) ∧ Touches [.tbi, .mbr] s.toStation u ∧ u.tbi = before ∧
      u.mbr = { s.mbr with suspectOrigin := o } ∧ (o = s.mbr.suspectOrigin ∨ o = none) := by
  have gone (f : Tbi → Tbi) : Touches [.tbi, .mbr] s.toStation (s.toStation.onTbi f) :=
    (touches_onTbi _ _).mono (by decide)
  rcases command with ⟨rfl, ⟨b, rfl, rfl⟩, ⟨ho, rfl⟩ | ⟨⟨e, ho⟩, rfl⟩⟩ | ⟨rfl, rfl, rfl, ho, rfl⟩
  · have pass : decideOf .suspect (wordParty h.word) (.suspect b) s.toStation = .pass .nothing :=
      decideSuspect_other (wordParty h.word) hx
    exact ⟨_, _, exec_memberStands ho hs pass, gone _, rfl, rfl, .inl rfl⟩
  · exact ⟨_, _, exec_ownStands ho, (gone Tbi.ownPassed).also (touches_onMbr _ _) (by decide), rfl, rfl,
      .inr rfl⟩
  · exact ⟨_, _, exec_passedStands ho rfl, gone _, rfl, rfl, .inl rfl⟩

/-- Settles O20: the SUSPECTs and the LEAVE of another station are one loss. -/
theorem memberRemovesALostStation : Obligations.MemberRemovesALostStation := by
  intro k h m x before s hs hx command
  obtain ⟨u, o, runs, touched, tbi, mbr, origin⟩ := exec_loses hs hx command
  have state : u.mbr.state = .member := by rw [mbr]; exact hs
  have apart : x ≠ u.number := by
    rw [Station.number, touched.straps (by decide)]
    exact hx
  obtain ⟨⟨o', mbr', origin'⟩, ftc', tbi'⟩ := Station.loseStation_at_member state apart
  have member : u.mbr.isMember x = s.mbr.isMember x := by rw [mbr]; rfl
  rw [member] at mbr' ftc' tbi'
  rw [mbr] at mbr' origin'
  rw [touched.ftc (by decide)] at ftc'
  rw [tbi] at tbi'
  refine ⟨_, runs, ?_, ?_, fun unlisted => ?_, fun listed => ?_, ?_⟩
  · rw [State.putStation_toStation, mbr']
  · rw [State.putStation_toStation, mbr']
    rcases origin' with same | gone
    · exact same ▸ origin
    · exact .inr gone
  · rw [unlisted] at mbr' ftc' tbi'
    rw [State.putStation_toStation, mbr']
    exact ⟨rfl, ftc', tbi'⟩
  · rw [listed] at mbr' ftc' tbi'
    rw [State.putStation_toStation, mbr']
    exact ⟨rfl, ftc', tbi'⟩
  · exact .of_touches (touched.step (touches_loseStation _ x) (by decide) (by decide))

/-! ## A station that is no MEMBER (R26, R27, R29) -/

section
variable {s : Station}

theorem Station.loseStation_of_out {x : Nat} (h : s.mbr.state = .idleOut ∨ s.mbr.state = .rejected ∨
    (s.mbr.state ≠ .member ∧ s.mbr.isMember x = false)) : s.loseStation x = s := by
  unfold Station.loseStation
  split <;> simp_all

theorem Station.loseStation_tentative {x : Nat} (hs : s.mbr.state = .listening ∨ s.mbr.state = .joining)
    (h : s.mbr.isMember x = true) :
    s.loseStation x = (s.onMbr fun m => m.setEntry x RosterEntry.absent).preCheck := by
  unfold Station.loseStation
  rcases hs with hs | hs <;> simp only [hs, h, if_true] <;> rfl

theorem Station.hearJoin_tentative (x : Nat) (tile : Tile)
    (hs : s.mbr.state = .listening ∨ s.mbr.state = .joining) :
    s.hearJoin x tile = (s.onMbr fun m => m.setEntry x (RosterEntry.listed (some tile))).preCheck := by
  unfold Station.hearJoin
  rcases hs with hs | hs <;> simp only [hs] <;> rfl

theorem Station.hearJoin_of_out (x : Nat) (tile : Tile) (hs : s.mbr.state = .idleOut ∨ s.mbr.state = .rejected) :
    s.hearJoin x tile = s := by
  unfold Station.hearJoin
  rcases hs with hs | hs <;> simp only [hs]

/-- A tentative roster with an entry replaced, and what the pre-check then finds. -/
theorem Station.followed (x : Nat) (entry : RosterEntry) (s : Station) :
    (s.mbr.state = .listening ∨ (s.mbr.state = .joining ∧ ¬s.clashes (s.mbr.roster.set x entry)) →
      (s.onMbr fun m => m.setEntry x entry).preCheck = s.onMbr fun m => m.setEntry x entry) ∧
    (s.mbr.state = .joining → s.clashes (s.mbr.roster.set x entry) →
      (s.onMbr fun m => m.setEntry x entry).preCheck = (s.onMbr fun m => m.setEntry x entry).reject) := by
  refine ⟨fun free => Station.preCheck_of_none ?_, fun joining clash => Station.preCheck_of_clash joining clash⟩
  rcases free with listening | ⟨-, unclashed⟩
  · exact .inl fun joining => by
      have state : s.mbr.state = .joining := joining
      simp [listening] at state
  · exact .inr unclashed

end

/-- The SUSPECT of a station or its LEAVE stands at a station that is no MEMBER. -/
theorem exec_loses_outside {k : Kind} {h : Heard} {m : Message} {x : Nat} {s : State} (ho : s.hearsOther k h m)
    (hs : s.mbr.state ≠ .member)
    (command : (k = .suspect ∧ ∃ b : Byte, m = .suspect b ∧ x = b.toNat) ∨
      (k = .leave ∧ m = .leave ∧ x = wordParty h.word)) :
    exec (commandOf k (.whole h .clear)) s =
      .next (s.putStation ((s.toStation.onTbi Tbi.passedBy).loseStation x)) := by
  rcases command with ⟨rfl, b, rfl, rfl⟩ | ⟨rfl, rfl, rfl⟩ <;> exact exec_nonMemberStands ho hs

/-- Settles O21: the entry named is replaced, and a joiner's pre-check follows. -/
theorem tentativeRosterFollowsTheBus : Obligations.TentativeRosterFollowsTheBus := by
  refine ⟨fun k h m x s ho command out => ?_, fun k h m x entry s ho command hs => ?_⟩
  · have notMember : s.mbr.state ≠ .member := by
      rcases out with hs | hs | ⟨hs, -⟩
      · simp [hs]
      · simp [hs]
      · exact hs
    refine ⟨_, exec_loses_outside ho notMember command, ?_⟩
    rw [Station.loseStation_of_out (s := s.toStation.onTbi Tbi.passedBy) out]
    exact ⟨rfl, .of_touches (touches_onTbi _ _)⟩
  · have follows : ∃ u : Station, exec (commandOf k (.whole h .clear)) s = .next (s.putStation u) ∧
        (s.mbr.state = .listening ∨ s.mbr.state = .joining →
          u = ((s.toStation.onTbi Tbi.passedBy).onMbr fun m => m.setEntry x entry).preCheck) ∧
        (s.mbr.state = .idleOut ∨ s.mbr.state = .rejected → u = s.toStation.onTbi Tbi.passedBy) := by
      rcases command with ⟨rfl, b, rfl, rfl, rfl⟩ | ⟨listed, rfl, command⟩
      · exact ⟨_, exec_nonMemberStands ho hs,
          Station.hearJoin_tentative (s := s.toStation.onTbi Tbi.passedBy) _ _,
          Station.hearJoin_of_out (s := s.toStation.onTbi Tbi.passedBy) _ _⟩
      · exact ⟨_, exec_loses_outside ho hs command,
          fun tentative => Station.loseStation_tentative (s := s.toStation.onTbi Tbi.passedBy) tentative listed,
          fun out => Station.loseStation_of_out (s := s.toStation.onTbi Tbi.passedBy)
            (out.elim .inl fun rejected => .inr (.inl rejected))⟩
    obtain ⟨u, runs, tentative, idle⟩ := follows
    obtain ⟨free, clash⟩ := Station.followed x entry (s.toStation.onTbi Tbi.passedBy)
    have moved : Touches [.tbi, .mbr] s.toStation
        ((s.toStation.onTbi Tbi.passedBy).onMbr fun m => m.setEntry x entry) :=
      .step (touches_onTbi _ _) (touches_onMbr _ _) (by decide) (by decide)
    refine ⟨_, runs, fun unclashed => ?_, fun joining clashed => ?_, fun out => ?_⟩
    · rw [tentative (unclashed.imp_right And.left), free unclashed]
      exact ⟨rfl, rfl, .of_touches moved⟩
    · rw [tentative (.inr joining), clash joining clashed]
      exact ⟨rfl, Station.reject_tbi _, .of_touches (moved.trans (touches_reject _))⟩
    · rw [idle out]
      exact ⟨rfl, .of_touches (touches_onTbi _ _)⟩

/-! ## Orders and BEACONs (R26, R38, R44) -/

theorem TxMsg.kind_eq_leave (m : TxMsg) : m.kind = .leave ↔ m = .leave := by
  cases m <;> simp [TxMsg.kind]

/-- Settles O23: the order reaches the MEMBER it names, whose queue takes one LEAVE. -/
theorem orderLeaveQueuesALeave : Obligations.OrderLeaveQueuesALeave := by
  intro h x s ho
  refine ⟨_, exec_passedStands (k := .orderLeave) ho rfl, ?_,
    .of_touches ((touches_onTbi _ _).trans (touches_orderLeaveStands _ _))⟩
  simp only [State.putStation_toStation, standsOf, orderLeaveStands, passedRecord, Station.onTbi_number,
    Station.onTbi_mbr]
  by_cases named : x.toNat = s.number ∧ s.mbr.state = .member
  · simp [named, Tbi.pushOnce_eq, TxMsg.kind_eq_leave, show TxMsg.kind .leave = .leave from rfl, Tbi.passedBy]
  · have idle : ¬(x.toNat = s.number ∧ s.mbr.state = .member ∧ ∀ d ∈ s.tbi.queue, d.msg ≠ .leave) :=
      fun all => named ⟨all.1, all.2.1⟩
    simp only [named, idle, if_false]
    rfl

theorem beaconStands_of_member {r : Receiving} {s : Station} {b : Byte} {n : Refresh} {ms : StationSet}
    {l : Option FrameNo} (hm : r.message = some (.beacon b n ms l)) (hs : s.mbr.state = .member) :
    beaconStands r s =
      if r.sender ≠ s.number ∧ s.mbr.isMember r.sender = true then
        s.onMbr (Mbr.add r.sender (some (tileOfByte b)))
      else s := by
  simp only [beaconStands, hm, hs]

/-- Settles O25: the watch of a listed sender restarts with its tile. -/
theorem beaconAtMemberResetsTheWatch : Obligations.BeaconAtMemberResetsTheWatch := by
  intro h b r ms l s hs
  refine ⟨fun ho => ?_, fun e ho own => ?_⟩
  · have stands := beaconStands_of_member (s := s.toStation.onTbi Tbi.passedBy)
      (r := passedRecord .beacon h (.beacon b r ms l) false .nothing) rfl hs
    have touched := touches_beaconStands (s.toStation.onTbi Tbi.passedBy)
      (passedRecord .beacon h (.beacon b r ms l) false .nothing)
    refine ⟨_, exec_passedStands (k := .beacon) ho rfl, ?_, fun listed => ?_, fun unlisted => ?_, ?_⟩
    · refine (congrArg Station.tbi stands).trans ?_
      split <;> rfl
    · exact congrArg Station.mbr (stands.trans (if_pos listed))
    · have idle : ¬(wordParty h.word ≠ s.number ∧ s.mbr.isMember (wordParty h.word) = true) := by
        rintro ⟨other, member⟩
        rcases unlisted with same | absent
        · exact other same
        · exact absurd (member.symm.trans absent) (by simp)
      exact (congrArg Station.mbr (stands.trans (if_neg idle)) :)
    · refine .of_touches ?_
      have moved : Touches [.tbi, .mbr] s.toStation (s.toStation.onTbi Tbi.passedBy) :=
        (touches_onTbi _ _).mono (by decide)
      refine moved.trans ?_
      rw [show standsOf .beacon = beaconStands from rfl, stands]
      exact .ite ((touches_onMbr _ _).mono (by decide)) (.refl _ _)
  · have stands := beaconStands_of_member (s := s.toStation.onTbi Tbi.ownPassed)
      (r := passedRecord .beacon h (.beacon b r ms l) true .nothing) rfl hs
    have same := stands.trans (if_neg fun other : wordParty h.word ≠ s.number ∧ _ => other.1 own)
    refine ⟨_, exec_ownStands (k := .beacon) ho, congrArg Station.tbi same, .of_touches ?_⟩
    rw [show standsOf .beacon = beaconStands from rfl, same]
    exact touches_onTbi _ _

end Sys2Proof.Machine
end

section
/-! PROOF. The frame table by frame number: what finds a record after an update, READY queued, copies begun,
and the draining of a frame (R60, R72, R76, R117). -/

namespace Sys2Proof.Machine

/-! ## Finding a record -/

theorem Ftc.frame_of_find {t : Ftc} {n : FrameNo} {r : FrameRecord} (h : t.find n = some r) : r.frame = n :=
  beq_iff_eq.mp (List.find?_some h :)

theorem Ftc.mem_of_find {t : Ftc} {n : FrameNo} {r : FrameRecord} (h : t.find n = some r) : r ∈ t.records :=
  List.mem_of_find?_eq_some h

theorem Ftc.find_isSome_of_mem {t : Ftc} {r : FrameRecord} (h : r ∈ t.records) : ∃ x, t.find r.frame = some x := by
  have found : (t.find r.frame).isSome = true := List.find?_isSome.mpr ⟨r, h, by simp⟩
  exact Option.isSome_iff_exists.mp found

theorem Ftc.find_congr {t u : Ftc} (h : u.records = t.records) (n : FrameNo) : u.find n = t.find n := by
  simp only [Ftc.find, h]

/-- An update of every record that keeps the frame numbers. -/
theorem Ftc.find_of_map {t u : Ftc} {f : FrameRecord → FrameRecord} (h : u.records = t.records.map f)
    (hf : ∀ r, (f r).frame = r.frame) (n : FrameNo) : u.find n = (t.find n).map f := by
  simp only [Ftc.find, h, List.find?_map, Function.comp_def, hf]

theorem Ftc.find_onRecord_other {n m : FrameNo} (h : m ≠ n) (t : Ftc) (f : FrameRecord → FrameRecord)
    (hf : ∀ r, (f r).frame = r.frame) : (t.onRecord n f).find m = t.find m := by
  rw [Ftc.find_of_map (t := t) (u := t.onRecord n f) rfl (by intro r; split <;> simp [hf])]
  cases found : t.find m with
  | none => rfl
  | some r => simp [Ftc.frame_of_find found, h]

theorem Ftc.onRecord_onRecord (n : FrameNo) (f g : FrameRecord → FrameRecord) (hf : ∀ r, (f r).frame = r.frame)
    (t : Ftc) : (t.onRecord n f).onRecord n g = t.onRecord n fun r => g (f r) := by
  simp only [Ftc.onRecord, List.map_map, Ftc.mk.injEq, true_and, and_true]
  refine List.map_congr_left fun r _ => ?_
  by_cases h : r.frame = n <;> simp [h, hf]

theorem Ftc.onRecord_eq (n : FrameNo) (f : FrameRecord → FrameRecord) (t : Ftc) :
    t.onRecord n f = { t with records := t.records.map fun r => if r.frame = n then f r else r } := by
  simp [Ftc.onRecord]

theorem FrameNo.sub_one_ne (n : FrameNo) : n - 1 ≠ n := by bv_omega

theorem FrameNo.add_one_ne (n : FrameNo) : n + 1 ≠ n := by bv_omega

theorem FrameNo.sub_one_eq_iff (m n : FrameNo) : m - 1 = n ↔ m = n + 1 := by
  constructor <;> rintro rfl <;> bv_omega

theorem Ftc.predecessorCommitted_congr {t u : Ftc} {n : FrameNo} (h : u.find (n - 1) = t.find (n - 1)) :
    u.predecessorCommitted n = t.predecessorCommitted n := by
  simp only [Ftc.predecessorCommitted, h]

/-! ## READY queued (R76) -/

theorem TxMsg.isReadyOf_eq (n : FrameNo) (m : TxMsg) : m.isReadyOf n = (m == .ready n) := by
  rw [Bool.eq_iff_iff, beq_iff_eq]
  cases m <;> simp [TxMsg.isReadyOf]

theorem Station.readyEntry_congr {s t : Station} {n : FrameNo} (find : t.ftc.find (n - 1) = s.ftc.find (n - 1))
    (queue : t.tbi.queue = s.tbi.queue) : t.readyEntry n = s.readyEntry n := by
  simp only [Station.readyEntry, Ftc.predecessorCommitted_congr find, queue]

/-- READY joins the queue for a DRAINED record, and nothing else moves. -/
theorem Station.queueReady_eq (n : FrameNo) (s : Station) :
    s.queueReady n = s.onTbi fun t => { t with queue := t.queue ++
      (if (s.ftc.find n).any (fun r => r.state == .drained) then s.readyEntry n else []) } := by
  have unqueued : (s.tbi.queue.any (fun e => e.msg.isReadyOf n) = false) ↔
      s.tbi.queue.all (fun e => e.msg != .ready n) = true := by
    simp [TxMsg.isReadyOf_eq]
  have same : s = s.onTbi fun t => { t with queue := t.queue ++ [] } := by simp [Station.onTbi]
  unfold Station.queueReady
  cases s.ftc.find n with
  | none => exact same
  | some r =>
    simp only [unqueued, Option.any_some, beq_iff_eq, Station.readyEntry]
    by_cases drained : r.state = .drained
    · simp only [drained, true_and, if_true]
      split
      · rfl
      · exact same
    · simp only [drained, false_and, if_false]
      exact same

/-! ## Draining (R60, R117) -/

theorem Station.copyWaits_congr {s t : Station} (h : t.fie = s.fie) (n : FrameNo) : t.copyWaits n = s.copyWaits n := by
  simp only [Station.copyWaits, h]

/-- A copy that waits for a held frame begins from its buffer and pins it. -/
theorem Station.wakeCopy_of_waits {s : Station} {n : FrameNo} {r : FrameRecord} (h : s.copyWaits n = true)
    (hr : s.ftc.find n = some r) :
    s.wakeCopy n = (s.onFie (copyBegun r.buffer)).onFtc (Ftc.pinUp n) := by
  unfold Station.copyWaits at h
  unfold Station.wakeCopy
  cases hf : s.fie with
  | nil => simp [hf] at h
  | cons j js =>
    simp only [hf, Bool.and_eq_true, beq_iff_eq] at h
    obtain ⟨⟨work, phase⟩, frame⟩ := h
    have before : j.frame - 1 = n := (FrameNo.sub_one_eq_iff _ _).mpr frame
    simp only [work, phase, before, and_self, if_true]
    rw [Station.beginCopy_of_held hf (before ▸ hr), Ftc.frame_of_find hr]
    simp [Station.onFie, hf, copyBegun]

theorem Station.wakeCopy_of_none {s : Station} {n : FrameNo} (h : s.copyWaits n = false) : s.wakeCopy n = s := by
  unfold Station.copyWaits at h
  unfold Station.wakeCopy
  cases hf : s.fie with
  | nil => rfl
  | cons j js =>
    simp only [hf, Bool.and_eq_false_iff, beq_eq_false_iff_ne] at h
    refine if_neg fun ⟨work, phase, before⟩ => ?_
    rcases h with (h | h) | h
    · exact h work
    · exact h phase
    · exact h ((FrameNo.sub_one_eq_iff _ _).mp before)

/-- A record that has drained, pinned where a copy waited for it. -/
def FrameRecord.drainedAs (pinned : Bool) (r : FrameRecord) : FrameRecord :=
  { r with state := .drained, pins := if pinned then r.pins + 1 else r.pins }

/-- What the draining of a held frame moves: its record, READY, and a copy that waits for it. -/
theorem Station.drain_of_held {s : Station} {n : FrameNo} {r : FrameRecord} (hr : s.ftc.find n = some r) :
    s.drain n = ((s.onTbi fun t => { t with queue := t.queue ++ s.readyEntry n }).onFie
        (if s.copyWaits n then copyBegun r.buffer else id)).onFtc
      (Ftc.onRecord n (FrameRecord.drainedAs (s.copyWaits n))) := by
  have self : (s.onFtc (Ftc.setState n .drained)).ftc.find n = some { r with state := .drained } := by
    simp [Ftc.setState, Ftc.find_onRecord_self, hr]
  have other : (s.onFtc (Ftc.setState n .drained)).ftc.find (n - 1) = s.ftc.find (n - 1) :=
    Ftc.find_onRecord_other (FrameNo.sub_one_ne n) _ _ fun _ => rfl
  have entry : (s.onFtc (Ftc.setState n .drained)).readyEntry n = s.readyEntry n :=
    Station.readyEntry_congr other rfl
  have queued : (s.onFtc (Ftc.setState n .drained)).queueReady n =
      (s.onTbi fun t => { t with queue := t.queue ++ s.readyEntry n }).onFtc (Ftc.setState n .drained) := by
    rw [Station.queueReady_eq, self, entry]
    rfl
  unfold Station.drain
  rw [queued]
  cases waits : s.copyWaits n with
  | true =>
    rw [Station.wakeCopy_of_waits (r := { r with state := .drained })
      (s := (s.onTbi fun t => { t with queue := t.queue ++ s.readyEntry n }).onFtc (Ftc.setState n .drained))
      waits self]
    have twice : (s.ftc.setState n .drained).pinUp n = s.ftc.onRecord n (FrameRecord.drainedAs true) :=
      Ftc.onRecord_onRecord n (fun r => { r with state := .drained }) (fun r => { r with pins := r.pins + 1 })
        (fun _ => rfl) s.ftc
    simp only [if_true, Station.onFtc, Station.onFie, Station.onTbi, twice]
  | false =>
    exact Station.wakeCopy_of_none
      (s := (s.onTbi fun t => { t with queue := t.queue ++ s.readyEntry n }).onFtc (Ftc.setState n .drained)) waits

end Sys2Proof.Machine
end

section
/-! PROOF. BEACON before membership, and TICK (R25, R26, R27, R36, R37, R74, R75, R80). -/

namespace Sys2Proof.Machine

/-! ## A BEACON adopted (R26, R27) -/

/-- The roster that a BEACON's member set leaves, but for its sender. -/
def adoptedEntry (own : Nat) (members : StationSet) (i : Nat) (e : RosterEntry) : RosterEntry :=
  if members.getLsbD i = true ∧ i ≠ own then RosterEntry.listed e.tile else RosterEntry.absent

theorem Mbr.adopt_eq (own sender : Nat) (tile : Tile) (members : StationSet) (m : Mbr) :
    m.adopt own sender tile members = { m with
      roster := (mapRoster (adoptedEntry own members) 0 m.roster).set sender (RosterEntry.listed (some tile)) } := by
  simp [Mbr.adopt, Mbr.add, Mbr.setEntry, RosterEntry.listed]
  rfl

/-- A roster is the adopted one when it has the adopted entries. -/
theorem adopted_roster {own sender : Nat} {tile : Tile} {members : StationSet} {old roster : List RosterEntry}
    (length : roster.length = old.length)
    (entries : ∀ (x : Nat) (e : RosterEntry), old[x]? = some e → roster[x]? = some
      (if x = sender then RosterEntry.listed (some tile) else adoptedEntry own members x e)) :
    (mapRoster (adoptedEntry own members) 0 old).set sender (RosterEntry.listed (some tile)) = roster := by
  refine List.ext_getElem? fun x => ?_
  cases at_ : old[x]? with
  | none =>
    have outside : old.length ≤ x := List.getElem?_eq_none_iff.mp at_
    rw [List.getElem?_eq_none (by simpa [mapRoster_length] using outside),
      List.getElem?_eq_none (by omega)]
  | some e =>
    have inside : x < old.length := (List.getElem?_eq_some_iff.mp at_).1
    rw [entries x e at_, List.getElem?_set, mapRoster_length]
    by_cases same : sender = x
    · simp [same, inside]
    · simp [same, Ne.symm same, mapRoster_getElem?, at_]

section
variable {s : Station} {r : Receiving} {b : Byte} {n : Refresh} {ms : StationSet} {l : Option FrameNo}

theorem beaconStands_of_listening (hm : r.message = some (.beacon b n ms l)) (hs : s.mbr.state = .listening) :
    beaconStands r s = (s.adoptWall r.sender (tileOfByte b) ms l).enterJoining := by
  simp only [beaconStands, hm, hs]

theorem beaconStands_of_joining (hm : r.message = some (.beacon b n ms l)) (hs : s.mbr.state = .joining) :
    beaconStands r s = (s.adoptWall r.sender (tileOfByte b) ms l).preCheck := by
  simp only [beaconStands, hm, hs]

end

/-- The pre-check or the JOIN of a station turns on the clashes of its roster alone. -/
theorem Station.enterJoining_of_clash {s : Station} (h : s.clashes s.mbr.roster) :
    s.enterJoining = (s.onMbr fun m => { m with
      state := .joining, tickWatch := 0, retryCount := 0, joinWait := 0 }).reject :=
  Station.tryJoin_of_clash (s := s.onMbr _) h

theorem Station.enterJoining_of_none {s : Station} (h : ¬s.clashes s.mbr.roster) :
    s.enterJoining = (s.onMbr fun m => { m with
      state := .joining, tickWatch := 0, retryCount := 0, joinWait := 0 }).onTbi
        (Tbi.pushOnce (.join s.tileByte)) :=
  Station.tryJoin_of_none (s := s.onMbr _) h

theorem Station.unqueued_of_reject (s : Station) :
    ∀ d ∈ s.reject.tbi.queue, d.status ≠ .sending → d.msg.kind ≠ .join := by
  intro d hd waiting
  rw [Station.reject_tbi] at hd
  have kept := (List.mem_filter.mp hd).2
  simp only [Bool.or_eq_true, beq_iff_eq, bne_iff_ne] at kept
  exact kept.resolve_left waiting

/-- The station that has taken a BEACON's wall, before its pre-check. -/
def Station.adopted (roster : List RosterEntry) (last : Option FrameNo) (s : Station) : Station :=
  ((s.onTbi Tbi.passedBy).onMbr fun m => { m with roster }).onFtc fun t => { t with lastOpened := last.or t.lastOpened }

/-- Settles O26: the adopted roster is the one described, and the pre-check turns on it. -/
theorem beaconIsAdoptedBeforeMembership : Obligations.BeaconIsAdoptedBeforeMembership := by
  intro h b r ms l s roster ho hs length entries
  have wall : (s.toStation.onTbi Tbi.passedBy).adoptWall (wordParty h.word) (tileOfByte b) ms l =
      s.toStation.adopted roster l := by
    have named : s.mbr.adopt s.number (wordParty h.word) (tileOfByte b) ms = { s.mbr with roster := roster } := by
      rw [Mbr.adopt_eq]
      exact congrArg (fun q => { s.mbr with roster := q }) (adopted_roster length entries)
    simp only [Station.adoptWall, Station.onMbr, Station.onFtc, Station.adopted]
    congr 1
  obtain ⟨u, runs, listener, joiner⟩ : ∃ u : Station,
      exec (.beacon (.whole h .clear)) s = .next (s.putStation u) ∧
      (s.mbr.state = .listening → u = (s.toStation.adopted roster l).enterJoining) ∧
      (s.mbr.state = .joining → u = (s.toStation.adopted roster l).preCheck) := by
    refine ⟨_, exec_passedStands (k := .beacon) ho rfl, fun state => ?_, fun state => ?_⟩
    · exact (beaconStands_of_listening (s := s.toStation.onTbi Tbi.passedBy)
        (r := passedRecord .beacon h (.beacon b r ms l) false .nothing) rfl state).trans (congrArg Station.enterJoining wall)
    · exact (beaconStands_of_joining (s := s.toStation.onTbi Tbi.passedBy)
        (r := passedRecord .beacon h (.beacon b r ms l) false .nothing) rfl state).trans (congrArg Station.preCheck wall)
  have moved : Touches [.tbi, .mbr, .ftc] s.toStation (s.toStation.adopted roster l) :=
    .step (l₁ := [.tbi, .mbr]) (.step (touches_onTbi _ _) (touches_onMbr _ _) (by decide) (by decide))
      (touches_onFtc _ _) (by decide) (by decide)
  have touched : Touches [.tbi, .mbr] (s.toStation.adopted roster l) u := by
    rcases hs with state | state
    · exact listener state ▸ touches_enterJoining _
    · exact joiner state ▸ touches_preCheck _
  refine ⟨_, runs, ?_, fun clash => ?_, fun free state => ?_, fun free state => ?_,
    .of_touches (moved.also touched (by decide))⟩
  · rw [State.putStation_toStation, touched.ftc (by decide)]
    cases l <;> rfl
  · rcases hs with state | state
    · rw [State.putStation_toStation, listener state, Station.enterJoining_of_clash clash]
      exact ⟨rfl, Station.unqueued_of_reject _⟩
    · rw [State.putStation_toStation, joiner state, Station.preCheck_of_clash (s := s.toStation.adopted roster l) state clash]
      exact ⟨rfl, Station.unqueued_of_reject _⟩
  · rw [State.putStation_toStation, listener state, Station.enterJoining_of_none free]
    exact ⟨rfl, Tbi.pushOnce_eq _ _⟩
  · rw [State.putStation_toStation, joiner state, Station.preCheck_of_none (.inr free)]
    exact ⟨rfl, rfl⟩

/-! ## TICK (R36, R75, R81) -/

section
variable {s : Station} {r : Receiving} {n : Refresh}

theorem tickStands_of_ignored (hm : r.message = some (.tick n))
    (hs : s.mbr.state = .idleOut ∨ s.mbr.state = .rejected ∨
      (s.mbr.state = .member ∧ s.mbr.tickSender ≠ some r.sender)) : tickStands r s = s := by
  rcases hs with hs | hs | ⟨hs, ignored⟩
  · simp only [tickStands, hm, hs]
  · simp only [tickStands, hm, hs]
  · simp only [tickStands, hm, hs, if_neg ignored]

theorem tickStands_of_listening (hm : r.message = some (.tick n)) (hs : s.mbr.state = .listening) :
    tickStands r s =
      (s.onMbr fun m => { m with tickWatch := 0 }).onFtc fun t => { t with refresh := n } := by
  simp only [tickStands, hm, hs]

theorem tickStands_of_joining (hm : r.message = some (.tick n)) (hs : s.mbr.state = .joining) :
    tickStands r s = s.onFtc fun t => { t with refresh := n } := by
  simp only [tickStands, hm, hs]

theorem tickStands_of_accepted (hm : r.message = some (.tick n)) (hs : s.mbr.state = .member)
    (accepted : s.mbr.tickSender = some r.sender) :
    tickStands r s = ((s.onMbr fun m => { m with tickWatch := 0 }).beaconSlot n).acceptTick n := by
  simp only [tickStands, hm, hs, if_pos accepted]

end

theorem Mbr.tickSender_eq_some_iff (m : Mbr) (x : Nat) :
    m.tickSender = some x ↔ m.holderRemoved = false ∧ m.dutyHolder = some x := by
  cases removed : m.holderRemoved <;> simp [Mbr.tickSender, removed]

/-- A TICK stands, another party's or the station's own: what is left is what it does to the blocks. -/
theorem exec_tickStands {h : Heard} {n : Refresh} {before : Tbi} {s : State}
    (ho : (s.hearsOther .tick h (.tick n) ∧ before = s.tbi.passedBy) ∨
      (∃ e, s.hearsOwn .tick h (.tick n) e ∧ before = s.tbi.ownPassed)) :
    ∃ r : Receiving, r.message = some (.tick n) ∧ r.sender = wordParty h.word ∧
      exec (.tick (.whole h .clear)) s =
        .next (s.putStation (tickStands r (s.toStation.onTbi fun _ => before))) := by
  rcases ho with ⟨ho, rfl⟩ | ⟨e, ho, rfl⟩
  · exact ⟨_, rfl, rfl, exec_passedStands (k := .tick) ho rfl⟩
  · exact ⟨_, rfl, rfl, exec_ownStands (k := .tick) ho⟩

/-- Settles O27, by the state of the station. -/
theorem tickOutsideTheDuty : Obligations.TickOutsideTheDuty := by
  intro h n before s ho ignored
  obtain ⟨r, message, sender, runs⟩ := exec_tickStands ho
  have touched (l : List Block) : Touches (.tbi :: l) s.toStation (s.toStation.onTbi fun _ => before) :=
    (touches_onTbi _ _).mono (by simp)
  refine ⟨_, runs, ?_⟩
  rw [State.putStation_toStation]
  cases state : s.mbr.state with
  | listening =>
    rw [tickStands_of_listening message (s := s.toStation.onTbi fun _ => before) state]
    exact ⟨rfl, rfl, rfl, .of_touches (.step (l₁ := [.tbi, .mbr])
      ((touched [.mbr]).also (touches_onMbr _ _) (by decide)) (touches_onFtc _ _) (by decide) (by decide))⟩
  | joining =>
    rw [tickStands_of_joining message (s := s.toStation.onTbi fun _ => before) state]
    exact ⟨rfl, rfl, rfl, .of_touches ((touched [.mbr, .ftc]).also (touches_onFtc _ _) (by decide))⟩
  | member =>
    have other : s.mbr.tickSender ≠ some r.sender := fun same => by
      obtain ⟨kept, holder⟩ := (Mbr.tickSender_eq_some_iff _ _).mp same
      rw [sender] at holder
      rcases ignored state with differs | removed
      · exact differs holder
      · simp [kept] at removed
    rw [tickStands_of_ignored message (s := s.toStation.onTbi fun _ => before) (.inr (.inr ⟨state, other⟩))]
    exact ⟨rfl, rfl, rfl, .of_touches (touched _)⟩
  | idleOut =>
    rw [tickStands_of_ignored message (s := s.toStation.onTbi fun _ => before) (.inl state)]
    exact ⟨rfl, rfl, rfl, .of_touches (touched _)⟩
  | rejected =>
    rw [tickStands_of_ignored message (s := s.toStation.onTbi fun _ => before) (.inr (.inl state))]
    exact ⟨rfl, rfl, rfl, .of_touches (touched _)⟩

end Sys2Proof.Machine
end

section
/-! PROOF. The accepted TICK: the count compared, the beacon slot, the commit decision (R37, R74, R80). -/

namespace Sys2Proof.Machine

theorem Station.count_get (c d : Counter) (s : Station) :
    (s.count c).stu.counters.get d =
      if d = c then saturate (s.stu.counters.get d) else s.stu.counters.get d := by
  rw [Station.count_stu]
  by_cases same : d = c
  · rw [if_pos same, same]
    exact Counters.get_set_same _ _ _
  · rw [if_neg same]
    exact Counters.get_set_other _ _ same

section
variable {s : Station}

/-! ## The beacon slot (R37) -/

theorem TxMsg.kind_eq_beacon (m : TxMsg) : m.kind = .beacon ↔ m = .beacon := by
  cases m <;> simp [TxMsg.kind]

/-- The BEACON that an accepted TICK of count n queues. -/
def Station.slotEntry (n : Refresh) (s : Station) : List TxEntry :=
  if n.toNat % 8 = s.number % 8 ∧ ∀ d ∈ s.tbi.queue, d.msg ≠ .beacon then [⟨.beacon, .waiting⟩] else []

theorem Station.beaconSlot_eq (n : Refresh) (s : Station) :
    s.beaconSlot n = s.onTbi fun t => { t with queue := t.queue ++ s.slotEntry n } := by
  have same : s = s.onTbi fun t => { t with queue := t.queue ++ [] } := by simp [Station.onTbi]
  have unqueued : (∀ d ∈ s.tbi.queue, d.msg.kind ≠ TxMsg.kind .beacon) ↔ ∀ d ∈ s.tbi.queue, d.msg ≠ .beacon :=
    forall₂_congr fun d _ => not_congr (TxMsg.kind_eq_beacon _)
  unfold Station.beaconSlot Station.slotEntry
  by_cases turn : n.toNat % 8 = s.number % 8
  · rw [if_pos turn]
    by_cases free : ∀ d ∈ s.tbi.queue, d.msg ≠ .beacon
    · rw [if_pos ⟨turn, free⟩]
      exact Station.onTbi_congr ((Tbi.pushOnce_eq _ _).trans (by rw [if_pos (unqueued.mpr free)]))
    · rw [if_neg fun both => free both.2]
      exact Station.onTbi_congr ((Tbi.pushOnce_eq _ _).trans
        (by rw [if_neg fun all => free (unqueued.mp all), List.append_nil]))
  · rw [if_neg turn, if_neg fun both => turn both.1]
    exact same

/-! ## The count (R74) -/

/-- The station once the count of an accepted TICK is compared. -/
def Station.compared (n : Refresh) (s : Station) : Station :=
  if s.ftc.refresh = n ∨ s.ftc.refresh = n + 1 then s else (s.onFtc (Ftc.slip n)).count .countSlip

theorem Station.compared_of_near {n : Refresh} (h : s.ftc.refresh = n ∨ s.ftc.refresh = n + 1) : s.compared n = s :=
  if_pos h

theorem Station.compared_of_slip {n : Refresh} (h : s.ftc.refresh ≠ n) (h' : s.ftc.refresh ≠ n + 1) :
    s.compared n = (s.onFtc (Ftc.slip n)).count .countSlip :=
  if_neg fun near => near.elim h h'

theorem Refresh.add_one_ne (n : Refresh) : n + 1 ≠ n := by bv_omega

/-- The commit decision is made on the compared count. -/
theorem Station.acceptTick_eq (n : Refresh) (s : Station) :
    s.acceptTick n = (s.compared n).commit ((s.compared n).ftc.refresh + 1) (s.ftc.refresh == n + 1) := by
  unfold Station.acceptTick
  by_cases same : s.ftc.refresh = n
  · have early : (s.ftc.refresh == n + 1) = false := by simp [same]
    rw [Station.compared_of_near (.inl same), if_pos same, early, same]
  · by_cases late : s.ftc.refresh = n + 1
    · have next : n + 2 = n + 1 + 1 := by bv_omega
      rw [Station.compared_of_near (.inr late), if_neg same, if_pos late, late, next]
      simp
    · rw [Station.compared_of_slip same late, if_neg same, if_neg late, beq_eq_false_iff_ne.mpr late]
      rfl

theorem Station.compared_rest (n : Refresh) (s : Station) : Touches [.ftc, .stu] s (s.compared n) := by
  unfold Station.compared
  exact .ite (.refl _ _) (.step (touches_onFtc _ _) (touches_count _ _) (by decide) (by decide))

theorem Station.compared_ftc_near {n : Refresh} (h : s.ftc.refresh = n ∨ s.ftc.refresh = n + 1) :
    (s.compared n).ftc = s.ftc := by rw [Station.compared_of_near h]

theorem Station.compared_ftc_slip {n : Refresh} (h : s.ftc.refresh ≠ n) (h' : s.ftc.refresh ≠ n + 1) :
    (s.compared n).ftc = s.ftc.slip n := by rw [Station.compared_of_slip h h']; rfl

theorem Station.compared_pendingReport (n : Refresh) (s : Station) :
    (s.compared n).stu.pendingReport = s.stu.pendingReport := by
  unfold Station.compared
  split <;> rfl

theorem Station.compared_get (n : Refresh) (s : Station) (c : Counter) :
    (s.compared n).stu.counters.get c =
      if c = .countSlip ∧ s.ftc.refresh ≠ n ∧ s.ftc.refresh ≠ n + 1 then saturate (s.stu.counters.get c)
      else s.stu.counters.get c := by
  by_cases near : s.ftc.refresh = n ∨ s.ftc.refresh = n + 1
  · rw [Station.compared_of_near near, if_neg fun all => near.elim all.2.1 all.2.2]
  · obtain ⟨same, late⟩ := not_or.mp near
    rw [Station.compared_of_slip same late, Station.count_get, Station.onFtc_stu]
    simp only [same, late, ne_eq, not_false_eq_true, and_true]

/-! ## The commit (R80) -/

/-- A record that has committed with a show refresh. -/
def FrameRecord.committedAs (r : Refresh) (x : FrameRecord) : FrameRecord :=
  { x with state := .committed, showRefresh := some r }

theorem Ftc.find_of_commits {t : Ftc} {x : FrameRecord} (h : t.commits x) : ∃ y, t.find x.frame = some y :=
  Ftc.find_isSome_of_mem (List.mem_of_find?_eq_some h.1)

/-- The successor of a frame that has just committed may be announced when it is DRAINED. -/
theorem Station.readyEntry_of_committed {x : FrameRecord} (r : Refresh) (h : s.ftc.commits x) (c : Station)
    (ftc : c.ftc = s.ftc.onRecord x.frame (FrameRecord.committedAs r)) (tbi : c.tbi = s.tbi) :
    c.readyEntry (x.frame + 1) =
      if ∀ d ∈ s.tbi.queue, d.msg ≠ .ready (x.frame + 1) then [⟨.ready (x.frame + 1), .waiting⟩] else [] := by
  obtain ⟨y, hy⟩ := Ftc.find_of_commits h
  have before : x.frame + 1 - 1 = x.frame := by bv_omega
  have committed : c.ftc.predecessorCommitted (x.frame + 1) = true := by
    have found : c.ftc.find x.frame = some (y.committedAs r) := by
      rw [ftc, Ftc.find_onRecord_self _ _ (FrameRecord.committedAs r) fun _ => rfl, hy]
      rfl
    simp only [Ftc.predecessorCommitted, before, found]
    rfl
  simp only [Station.readyEntry, committed, tbi, true_and, List.all_eq_true, bne_iff_ne]

/-- What a commit moves: its record, the READY of a DRAINED successor, and the count of a late one. -/
theorem Station.commit_moves (r : Refresh) (late : Bool) {x : FrameRecord} (h : s.ftc.commits x) :
    (s.commit r late).ftc = s.ftc.onRecord x.frame (FrameRecord.committedAs r) ∧
    (s.commit r late).tbi = { s.tbi with queue := s.tbi.queue ++
      (if (s.ftc.find (x.frame + 1)).any (fun y => y.state == .drained) = true ∧
        ∀ d ∈ s.tbi.queue, d.msg ≠ .ready (x.frame + 1) then [⟨.ready (x.frame + 1), .waiting⟩] else []) } ∧
    (s.commit r late).stu = if late then (s.count .lateShow).stu else s.stu := by
  have other : (s.ftc.onRecord x.frame (FrameRecord.committedAs r)).find (x.frame + 1) = s.ftc.find (x.frame + 1) :=
    Ftc.find_onRecord_other (FrameNo.add_one_ne _) _ _ fun _ => rfl
  have queued (c : Station) (ftc : c.ftc = s.ftc.onRecord x.frame (FrameRecord.committedAs r)) (tbi : c.tbi = s.tbi) :
      (c.queueReady (x.frame + 1)).tbi = { s.tbi with queue := s.tbi.queue ++
        (if (s.ftc.find (x.frame + 1)).any (fun y => y.state == .drained) = true ∧
          ∀ d ∈ s.tbi.queue, d.msg ≠ .ready (x.frame + 1) then [⟨.ready (x.frame + 1), .waiting⟩] else []) } := by
    rw [Station.queueReady_eq, Station.onTbi_tbi, Station.readyEntry_of_committed r h c ftc tbi, tbi, ftc, other]
    cases (s.ftc.find (x.frame + 1)).any (fun y => y.state == .drained) <;> simp
  rw [Station.commit_of_commits r late h]
  cases late with
  | true => exact ⟨Station.queueReady_ftc _ _, queued _ rfl rfl, (touches_queueReady _ _).stu (by decide)⟩
  | false => exact ⟨Station.queueReady_ftc _ _, queued _ rfl rfl, (touches_queueReady _ _).stu (by decide)⟩

theorem Ftc.commits_unique {t : Ftc} {x y : FrameRecord} (hx : t.commits x) (hy : t.commits y) : x = y :=
  Option.some.inj (hx.1.symm.trans hy.1)

/-- The commit decision, whether a record commits or none does. -/
theorem Station.commit_outcome (r : Refresh) (late : Bool) (s : Station) :
    ∃ ready : List TxEntry, (s.commit r late).tbi = { s.tbi with queue := s.tbi.queue ++ ready } ∧
      ((∀ x, ¬s.ftc.commits x) → (s.commit r late).ftc = s.ftc ∧ ready = []) ∧
      (∀ x, s.ftc.commits x →
        (s.commit r late).ftc = s.ftc.onRecord x.frame (FrameRecord.committedAs r) ∧
        ready = if (s.ftc.find (x.frame + 1)).any (fun y => y.state == .drained) = true ∧
          ∀ d ∈ s.tbi.queue, d.msg ≠ .ready (x.frame + 1) then [⟨.ready (x.frame + 1), .waiting⟩] else []) ∧
      ((late = false ∨ ∀ x, ¬s.ftc.commits x) → (s.commit r late).stu = s.stu) ∧
      (late = true → (∃ x, s.ftc.commits x) → (s.commit r late).stu = (s.count .lateShow).stu) := by
  by_cases none : ∀ x, ¬s.ftc.commits x
  · rw [Station.commit_of_none r late none]
    exact ⟨[], by simp, fun _ => ⟨rfl, rfl⟩, fun x h => absurd h (none x), fun _ => rfl,
      fun _ ⟨x, h⟩ => absurd h (none x)⟩
  · obtain ⟨x, h⟩ := Classical.not_forall_not.mp none
    obtain ⟨ftc, tbi, stu⟩ := Station.commit_moves r late h
    refine ⟨_, tbi, fun all => absurd h (all x), fun y hy => ?_, fun early => ?_, fun isLate _ => ?_⟩
    · cases Ftc.commits_unique h hy
      exact ⟨ftc, rfl⟩
    · rcases early with early | all
      · simpa [early] using stu
      · exact absurd h (all x)
    · simpa [isLate] using stu

end

/-- The station of an accepted TICK before the commit decision: its watch at 0, its slot taken, its count
compared. -/
def Station.ticked (n : Refresh) (before : Tbi) (s : Station) : Station :=
  (((s.onTbi fun _ => before).onMbr fun m => { m with tickWatch := 0 }).beaconSlot n).compared n

theorem Station.ticked_slot (n : Refresh) (before : Tbi) (s : Station) :
    ((s.onTbi fun _ => before).onMbr fun m => { m with tickWatch := 0 }).beaconSlot n =
      ((s.onTbi fun _ => { before with queue := before.queue ++ (s.onTbi fun _ => before).slotEntry n }).onMbr
        fun m => { m with tickWatch := 0 }) := by
  rw [Station.beaconSlot_eq]
  rfl

theorem Station.ticked_tbi (n : Refresh) (before : Tbi) (s : Station) :
    (s.ticked n before).tbi =
      { before with queue := before.queue ++ (s.onTbi fun _ => before).slotEntry n } := by
  rw [Station.ticked, (Station.compared_rest _ _).tbi (by decide), Station.ticked_slot]
  rfl

theorem Station.ticked_mbr (n : Refresh) (before : Tbi) (s : Station) :
    (s.ticked n before).mbr = { s.mbr with tickWatch := 0 } := by
  rw [Station.ticked, (Station.compared_rest _ _).mbr (by decide), Station.ticked_slot]
  rfl

theorem Station.ticked_ftc_near {n : Refresh} (before : Tbi) {s : Station}
    (h : s.ftc.refresh = n ∨ s.ftc.refresh = n + 1) : (s.ticked n before).ftc = s.ftc := by
  rw [Station.ticked, Station.ticked_slot]
  exact Station.compared_ftc_near h

theorem Station.ticked_ftc_slip {n : Refresh} (before : Tbi) {s : Station} (h : s.ftc.refresh ≠ n)
    (h' : s.ftc.refresh ≠ n + 1) : (s.ticked n before).ftc = s.ftc.slip n := by
  rw [Station.ticked, Station.ticked_slot]
  exact Station.compared_ftc_slip h h'

theorem Station.ticked_get (n : Refresh) (before : Tbi) (s : Station) (c : Counter) :
    (s.ticked n before).stu.counters.get c =
      if c = .countSlip ∧ s.ftc.refresh ≠ n ∧ s.ftc.refresh ≠ n + 1 then saturate (s.stu.counters.get c)
      else s.stu.counters.get c := by
  rw [Station.ticked, Station.ticked_slot]
  exact Station.compared_get n _ c

theorem Station.ticked_pendingReport (n : Refresh) (before : Tbi) (s : Station) :
    (s.ticked n before).stu.pendingReport = s.stu.pendingReport := by
  rw [Station.ticked, Station.ticked_slot]
  exact Station.compared_pendingReport n _

theorem Station.slotEntry_not_ready (n : Refresh) (k : FrameNo) (s : Station) :
    ∀ d ∈ s.slotEntry n, d.msg ≠ .ready k := by
  intro d hd
  unfold Station.slotEntry at hd
  split at hd
  · simp only [List.mem_singleton] at hd
    simp [hd]
  · simp at hd

/-- Settles O28: the slot, the comparison and the commit decision in turn. -/
theorem acceptedTickComparesCommitsAndOpensTheSlot :
    Obligations.AcceptedTickComparesCommitsAndOpensTheSlot := by
  intro h n s before hs holder kept ho
  obtain ⟨r, message, sender, runs⟩ := exec_tickStands ho
  have accepted : s.mbr.tickSender = some r.sender :=
    (Mbr.tickSender_eq_some_iff _ _).mpr ⟨kept, sender ▸ holder⟩
  have ticks : tickStands r (s.toStation.onTbi fun _ => before) =
      (s.toStation.ticked n before).commit ((s.toStation.ticked n before).ftc.refresh + 1)
        (s.ftc.refresh == n + 1) := by
    rw [tickStands_of_accepted (s := s.toStation.onTbi fun _ => before) message hs accepted,
      Station.acceptTick_eq, Station.ticked, Station.ticked_slot]
    rfl
  have touched := touches_tickStands (s.toStation.onTbi fun _ => before) r
  rw [ticks] at runs touched
  obtain ⟨ready, tbi, none, some_, early, late⟩ := Station.commit_outcome
    ((s.toStation.ticked n before).ftc.refresh + 1) (s.ftc.refresh == n + 1) (s.toStation.ticked n before)
  have unready (k : FrameNo) : (∀ d ∈ (s.toStation.ticked n before).tbi.queue, d.msg ≠ .ready k) ↔
      ∀ d ∈ before.queue, d.msg ≠ .ready k := by
    rw [Station.ticked_tbi]
    simp only [List.forall_mem_append, and_iff_left_iff_imp]
    exact fun _ => Station.slotEntry_not_ready n k _
  have stays := touches_commit ((s.toStation.ticked n before).ftc.refresh + 1) (s.ftc.refresh == n + 1)
    (s.toStation.ticked n before)
  have counted (c : Counter) (other : c ≠ .lateShow) :
      ((s.toStation.ticked n before).commit ((s.toStation.ticked n before).ftc.refresh + 1)
        (s.ftc.refresh == n + 1)).stu.counters.get c = (s.toStation.ticked n before).stu.counters.get c := by
    by_cases isLate : (s.ftc.refresh == n + 1) = true ∧ ∃ x, (s.toStation.ticked n before).ftc.commits x
    · rw [late isLate.1 isLate.2, Station.count_get, if_neg other]
    · rw [early (by simpa using Classical.not_and_iff_not_or_not.mp isLate)]
  have pending : ((s.toStation.ticked n before).commit ((s.toStation.ticked n before).ftc.refresh + 1)
      (s.ftc.refresh == n + 1)).stu.pendingReport = s.stu.pendingReport := by
    by_cases isLate : (s.ftc.refresh == n + 1) = true ∧ ∃ x, (s.toStation.ticked n before).ftc.commits x
    · rw [late isLate.1 isLate.2]
      exact Station.ticked_pendingReport n before _
    · rw [early (by simpa using Classical.not_and_iff_not_or_not.mp isLate)]
      exact Station.ticked_pendingReport n before _
  refine ⟨_, (s.toStation.ticked n before).ftc, (s.toStation.onTbi fun _ => before).slotEntry n, ready, runs,
    Station.ticked_ftc_near before, Station.ticked_ftc_slip before, ?_, ?_, fun turn free => if_pos ⟨turn, free⟩, ?_,
    none, fun x hx => ⟨?_, ?_, ?_⟩, fun c slip show_ => ?_, ?_, ?_, ?_, pending,
    .of_touches (.step (touches_onTbi _ _) touched (by decide) (by decide))⟩
  · exact (stays.mbr (by decide)).trans (Station.ticked_mbr n before _)
  · rw [State.putStation_toStation, tbi, Station.ticked_tbi]
  · rintro (other | ⟨d, hd, beacon⟩)
    · exact if_neg fun both => other both.1
    · exact if_neg fun both => both.2 d hd beacon
  · rw [State.putStation_toStation, (some_ x hx).1, Ftc.onRecord_eq]
    rfl
  · rintro ⟨y, hy, drained⟩ free
    rw [(some_ x hx).2, if_pos
      ⟨(Option.any_eq_true _ _).mpr ⟨y, hy, beq_iff_eq.mpr drained⟩, (unready _).mpr free⟩]
  · rintro (undrained | ⟨d, hd, queued⟩)
    · rw [(some_ x hx).2, if_neg]
      rintro ⟨any, -⟩
      obtain ⟨y, hy, drained⟩ := (Option.any_eq_true _ _).mp any
      exact undrained y hy (beq_iff_eq.mp drained)
    · rw [(some_ x hx).2, if_neg]
      rintro ⟨-, free⟩
      exact (unready _).mp free d hd queued
  · rw [State.putStation_toStation, counted c show_, Station.ticked_get, if_neg fun all => slip all.1]
  · rw [State.putStation_toStation, counted _ (by decide), Station.ticked_get]
    simp only [true_and]
  · rintro ⟨isLate, commits⟩
    rw [State.putStation_toStation, late (beq_iff_eq.mpr isLate) commits, Station.count_get, Station.ticked_get]
    simp
  · intro onTime
    rw [State.putStation_toStation, early (onTime.imp_left beq_eq_false_iff_ne.mpr), Station.ticked_get]
    simp

end Sys2Proof.Machine
end

section
/-! PROOF. OPEN: its four conditions, the record it makes and the initialisation it starts (R54, R55, R56, R115,
R116). -/

namespace Sys2Proof.Machine

/-! ## The four conditions (R55) -/

theorem FrameState.isWindow_eq (st : FrameState) : st.isWindow = (st != .shown && st != .retiring) := by
  cases st <;> rfl

theorem Buf.mem_all (b : Buf) : b ∈ Buf.all := by cases b <;> decide

theorem Ftc.freeBuffer_isNone_iff (t : Ftc) :
    t.freeBuffer.isNone = true ↔ ∀ b, (t.buffers.get b).state ≠ .free := by
  simp [Ftc.freeBuffer, Buf.mem_all]

theorem InitMode.ofCode_isNone_iff (mode : Byte) : (InitMode.ofCode mode).isNone = true ↔ 2 < mode.toNat := by
  unfold InitMode.ofCode
  repeat' split
  · simp [*]
  · simp [*]
  · simp [*]
  · simp only [Option.isNone_none, true_iff]
    bv_omega

/-- The low half of a source set is empty when it names no station. -/
theorem PartySet.stations_iff (src : PartySet) :
    src.extractLsb' 0 32 ≠ 0 ↔ ∃ i < 32, src.getLsbD i = true := by
  constructor
  · refine fun some_ => Classical.byContradiction fun none => some_ ?_
    apply BitVec.eq_of_getLsbD_eq
    intro i hi
    have clear : src.getLsbD i = false := by
      cases bit : src.getLsbD i with
      | false => rfl
      | true => exact absurd ⟨i, hi, bit⟩ none
    simp [clear]
  · rintro ⟨i, hi, bit⟩ zero
    have low : (src.extractLsb' 0 32).getLsbD i = true := by simp [hi, bit]
    rw [zero] at low
    simp at low

section
variable {p : Nat} {n : FrameNo} {mode : Byte} {colour : Option Pixel} {src : PartySet} {s : Station}

theorem decideOpen_of_gap {l : FrameNo} (last : s.ftc.lastOpened = some l) (gap : n ≠ l + 1) :
    decideOpen p (.openFrame n mode colour src) s = .refuse .frameState := by
  have differs : (n != l + 1) = true := bne_iff_ne.mpr gap
  simp only [decideOpen, last, differs, if_true]

/-- The conditions after the first. -/
theorem decideOpen_of_next (next : ∀ l, s.ftc.lastOpened = some l → n = l + 1) :
    decideOpen p (.openFrame n mode colour src) s =
      if 2 ≤ s.ftc.records.countP (fun r => r.state != .shown && r.state != .retiring) then .refuse .frameAhead
      else if s.ftc.freeBuffer.isNone then .refuse .noBuffer
      else if (InitMode.ofCode mode).isNone ∨ src = 0 ∨ src.extractLsb' 0 32 ≠ 0 then .refuse .badField
      else .pass .nothing := by
  cases last : s.ftc.lastOpened with
  | none => simp only [decideOpen, last, FrameState.isWindow_eq, Bool.false_eq_true, if_false]
  | some l =>
    have same : (n != l + 1) = false := by simp [next l last]
    simp only [decideOpen, last, same, FrameState.isWindow_eq, Bool.false_eq_true, if_false]

theorem Ftc.freeBuffer_isNone_eq_false {t : Ftc} {b : Buf} (h : (t.buffers.get b).state = .free) :
    t.freeBuffer.isNone ≠ true := fun none => t.freeBuffer_isNone_iff.mp none b h

theorem badOpen_iff (mode : Byte) (src : PartySet) :
    ((InitMode.ofCode mode).isNone = true ∨ src = 0 ∨ src.extractLsb' 0 32 ≠ 0) ↔
      2 < mode.toNat ∨ src = 0 ∨ ∃ i < 32, src.getLsbD i = true := by
  rw [InitMode.ofCode_isNone_iff, PartySet.stations_iff]

/-- An OPEN that meets the four conditions is passed. -/
theorem decideOpen_of_admitted {b : Buf} (next : ∀ l, s.ftc.lastOpened = some l → n = l + 1)
    (window : s.ftc.records.countP (fun r => r.state != .shown && r.state != .retiring) < 2)
    (free : (s.ftc.buffers.get b).state = .free) (known : mode.toNat ≤ 2) (sources : src ≠ 0)
    (masters : ∀ i < 32, src.getLsbD i = false) :
    decideOpen p (.openFrame n mode colour src) s = .pass .nothing := by
  have good : ¬((InitMode.ofCode mode).isNone = true ∨ src = 0 ∨ src.extractLsb' 0 32 ≠ 0) := by
    rw [badOpen_iff]
    rintro (unknown | none | ⟨i, hi, bit⟩)
    · omega
    · exact sources none
    · simp [masters i hi] at bit
  rw [decideOpen_of_next next, if_neg (by omega), if_neg (Ftc.freeBuffer_isNone_eq_false free), if_neg good]

end

/-- Settles O29: the conditions in order, each refused on or gone past. -/
theorem openIsAdmittedOnFourConditions : Obligations.OpenIsAdmittedOnFourConditions := by
  intro h n mode colour src s ho hs
  have refuse {c : Counter}
      (refused : decideOpen (wordParty h.word) (.openFrame n mode colour src) s.toStation = .refuse c) :=
    refuses_of_decide ho hs refused
  have pass (passed : decideOpen (wordParty h.word) (.openFrame n mode colour src) s.toStation = .pass .nothing) :=
    passes_of_decide ho hs passed
  refine ⟨_, exec_checkCode (k := .openFrame) ho.1, fun ⟨l, last, gap⟩ => refuse (decideOpen_of_gap last gap),
    fun next => ⟨fun ahead => refuse ?_, fun room => ⟨fun full => refuse ?_, fun b free => ⟨fun bad => refuse ?_,
      fun known sources masters => pass (decideOpen_of_admitted next room free known sources masters)⟩⟩⟩⟩
  · exact (decideOpen_of_next next).trans (if_pos ahead)
  · exact (decideOpen_of_next next).trans
      ((if_neg (by omega)).trans (if_pos ((Ftc.freeBuffer_isNone_iff _).mpr full)))
  · exact (decideOpen_of_next next).trans ((if_neg (by omega)).trans
      ((if_neg (Ftc.freeBuffer_isNone_eq_false free)).trans (if_pos ((badOpen_iff mode src).mpr bad))))

end Sys2Proof.Machine
end

section
/-! PROOF. OPEN at a MEMBER: the record it makes, and the initialisation it starts (R54, R56, R115, R116). -/

namespace Sys2Proof.Machine

section
variable {s : Station} {n : FrameNo} {b : Buf}

/-! ## A job added at the tail (R115, R116) -/

theorem Station.addJob_eq (n : FrameNo) (w : InitWork) (b : Buf) (s : Station) :
    s.addJob n w b = (s.onFie fun js => js ++ [InitJob.made n w b none .queued]).activateJob := rfl

/-- Behind an active job the new one is queued. -/
theorem Station.addJob_behind {j : InitJob} {js : List InitJob} (w : InitWork) (hf : s.fie = j :: js)
    (active : j.phase ≠ .queued) :
    s.addJob n w b = s.onFie fun js => js ++ [InitJob.made n w b none .queued] := by
  rw [Station.addJob_eq]
  exact Station.activateJob_of_active (j := j) (js := js ++ [InitJob.made n w b none .queued])
    (by simp [hf]) active

theorem Station.addJob_fill_alone (c : Pixel) (hf : s.fie = []) :
    s.addJob n (.fill c) b = s.onFie fun _ => [InitJob.made n (.fill c) b none .running] := by
  rw [Station.addJob_eq]
  exact Station.activateJob_fill (j := InitJob.made n (.fill c) b none .queued) (js := [])
    (by simp [hf]) rfl rfl

theorem Station.addJob_copy_alone {p : FrameRecord} (hf : s.fie = []) (hp : s.ftc.find (n - 1) = some p)
    (drained : p.state.hasDrained = true) :
    s.addJob n .copy b = (s.onFie fun _ => [InitJob.made n .copy b (some p.buffer) .running]).onFtc
      (Ftc.pinUp (n - 1)) := by
  have alone : (s.onFie fun js => js ++ [InitJob.made n .copy b none .queued]).fie =
      [InitJob.made n .copy b none .queued] := by simp [hf]
  rw [Station.addJob_eq, Station.activateJob_copy (p := p) alone rfl rfl hp drained,
    Station.beginCopy_of_held (p := p) alone hp, Ftc.frame_of_find hp]
  rfl

theorem Station.addJob_wait_alone (hf : s.fie = [])
    (hp : ∀ p, s.ftc.find (n - 1) = some p → p.state.hasDrained = false) :
    s.addJob n .copy b = s.onFie fun _ => [InitJob.made n .copy b none .waiting] := by
  rw [Station.addJob_eq]
  exact Station.activateJob_wait (j := InitJob.made n .copy b none .queued) (js := []) (by simp [hf]) rfl rfl hp

/-- The list's head is active, as the rules keep it. -/
def Station.HeadActive (s : Station) : Prop := ∀ j rest, s.fie = j :: rest → j.phase ≠ .queued

theorem Station.addJob_fill (c : Pixel) (active : s.HeadActive) :
    s.addJob n (.fill c) b = s.onFie fun js =>
      js ++ [InitJob.made n (.fill c) b none (if s.fie.isEmpty then .running else .queued)] := by
  cases hf : s.fie with
  | nil =>
    rw [Station.addJob_fill_alone c hf]
    simp [Station.onFie, hf]
  | cons j js => exact Station.addJob_behind _ hf (active j js hf)

/-- Whatever the list holds, a job added pins at most one drained record. -/
theorem Station.activateJob_ftc (s : Station) :
    s.activateJob.ftc = s.ftc ∨ ∃ (k : FrameNo) (p : FrameRecord), s.ftc.find k = some p ∧
      p.state.hasDrained = true ∧ s.activateJob.ftc = s.ftc.pinUp k := by
  unfold Station.activateJob
  split
  · next j js hf =>
    split
    · split
      · exact .inl rfl
      · split
        · next p hp =>
          split
          · next drained =>
            rw [Station.beginCopy_of_held hf hp, Ftc.frame_of_find hp]
            exact .inr ⟨_, p, hp, drained, rfl⟩
          · exact .inl rfl
        · exact .inl rfl
    · exact .inl rfl
  · exact .inl rfl

theorem Station.addJob_ftc (n : FrameNo) (w : InitWork) (b : Buf) (s : Station) :
    (s.addJob n w b).ftc = s.ftc ∨ ∃ (k : FrameNo) (p : FrameRecord), s.ftc.find k = some p ∧
      p.state.hasDrained = true ∧ (s.addJob n w b).ftc = s.ftc.pinUp k :=
  Station.activateJob_ftc _

/-! ## The initialisation of a new record (R115, R122) -/

theorem Station.takeInit_seed (colour : Pixel) (b : Buf) {p : FrameRecord} (hp : s.ftc.find (n - 1) = some p) :
    s.takeInit n .seed colour b = s.addJob n .copy b :=
  if_pos (by rw [hp]; rfl)

theorem Station.takeInit_seed_missing (colour : Pixel) (b : Buf) (hp : s.ftc.find (n - 1) = none) :
    s.takeInit n .seed colour b = (s.count .seedMissing).addJob n (.fill ⟨0, 0, 0, 0⟩) b :=
  if_neg (by rw [hp]; exact Bool.false_ne_true)

theorem Station.takeInit_keep (colour : Pixel) (b : Buf) {r : FrameRecord} (hr : s.ftc.find n = some r)
    (init : r.state = .init) (unsealed : r.isSealed = false) :
    s.takeInit n .keep colour b = s.onFtc (Ftc.setState n .filling) := by
  simp [Station.takeInit, Station.initDone, hr, init, unsealed]

/-! ## The record (R56) -/

/-- The frame table with a buffer bound to a new youngest record. -/
def Ftc.bound (b : Buf) (r : FrameRecord) (t : Ftc) : Ftc :=
  { t.onBuffer b (fun d => { d with state := .bound, frame := some r.frame }) with
    records := t.records ++ [r], lastOpened := some r.frame, f0 := t.f0.or (some r.frame) }

theorem Ftc.freeBuffer_of_lowest {t : Ftc} (free : (t.buffers.get b).state = .free)
    (lowest : ∀ c : Buf, (t.buffers.get c).state = .free → b.index ≤ c.index) : t.freeBuffer = some b := by
  have low (c : Buf) (h : c.index < b.index) : (t.buffers.get c).state ≠ .free := fun f => by
    have := lowest c f
    omega
  cases b with
  | b0 => simp [Ftc.freeBuffer, Buf.all, free]
  | b1 => simp [Ftc.freeBuffer, Buf.all, free, low .b0 (by decide)]
  | b2 => simp [Ftc.freeBuffer, Buf.all, free, low .b0 (by decide), low .b1 (by decide)]

section
variable {t : Ftc} {r : FrameRecord}

theorem Ftc.find_bound_self (new : t.find r.frame = none) : (t.bound b r).find r.frame = some r := by
  have none : t.records.find? (fun x => x.frame == r.frame) = none := new
  simp only [Ftc.find, Ftc.bound, List.find?_append, none]
  simp

theorem Ftc.find_bound_other (b : Buf) {m : FrameNo} (h : m ≠ r.frame) : (t.bound b r).find m = t.find m := by
  simp [Ftc.find, Ftc.bound, List.find?_append, Ne.symm h]

theorem Ftc.bound_get (b c : Buf) : (t.bound b r).buffers.get c =
    if c = b then { t.buffers.get b with state := .bound, frame := some r.frame } else t.buffers.get c :=
  Buffers.get_set ..

end

theorem openStands_of_nonMember {r : Receiving} {mode : Byte} {colour : Option Pixel} {src : PartySet}
    (hm : r.message = some (.openFrame n mode colour src)) (hs : s.mbr.state ≠ .member) :
    openStands r s = s.onFtc fun t => { t with lastOpened := some n } := by
  simp only [openStands, hm, hs, if_false]

theorem openStands_of_member {r : Receiving} {mode : Byte} {colour : Option Pixel} {src : PartySet}
    {md : InitMode} (hm : r.message = some (.openFrame n mode colour src)) (may : s.MayOpen n mode src b)
    (known : InitMode.ofCode mode = some md) :
    openStands r s =
      (s.onFtc (Ftc.bound b (FrameRecord.opened n b md colour src s.mbr.memberSet))).takeInit n md
        (colour.getD Pixel.zero) b := by
  have free : (s.onFtc fun t => { t with lastOpened := some n }).ftc.freeBuffer = some b :=
    Ftc.freeBuffer_of_lowest may.free may.lowest
  simp only [openStands, hm, may.member, known, if_true, Station.openRecord, free]
  rfl

end

/-! ## What the initialisation leaves of the records -/

/-- A record with its pins unseen. -/
def FrameRecord.unpinned (x : FrameRecord) : FrameRecord := { x with pins := 0 }

/-- The records held before an OPEN, as its initialisation leaves them: at most one is pinned. -/
def PinnedOne (before after : List FrameRecord) : Prop :=
  after = before ∨ ∃ k : FrameNo, after = before.map fun x => if x.frame = k then { x with pins := x.pins + 1 } else x

theorem PinnedOne.unpinned {before after : List FrameRecord} (h : PinnedOne before after) :
    after.map (fun x => { x with pins := 0 }) = before.map (fun x => { x with pins := 0 }) := by
  rcases h with rfl | ⟨k, rfl⟩
  · rfl
  · rw [List.map_map]
    refine List.map_congr_left fun x _ => ?_
    simp only [Function.comp_apply]
    split <;> rfl

theorem InitMode.ofCode_of_le {mode : Byte} (h : mode.toNat ≤ 2) :
    (mode = 0 ∧ InitMode.ofCode mode = some .clear) ∨ (mode = 1 ∧ InitMode.ofCode mode = some .seed) ∨
      (mode = 2 ∧ InitMode.ofCode mode = some .keep) := by
  have cases_ : mode = 0 ∨ mode = 1 ∨ mode = 2 := by bv_omega
  rcases cases_ with rfl | rfl | rfl <;> decide

theorem FrameRecord.opened_unsealed {src : PartySet} (n : FrameNo) (b : Buf) (md : InitMode) (colour : Option Pixel)
    (ms : StationSet) (h : src ≠ 0) : (FrameRecord.opened n b md colour src ms).isSealed = false :=
  beq_eq_false_iff_ne.mpr (Ne.symm h)

end Sys2Proof.Machine
end

section
/-! PROOF. OPEN at a MEMBER, assembled: the record, the pins and the job (R56, R115, R116, R117). -/

namespace Sys2Proof.Machine

section
variable {s : Station} {n : FrameNo} {b : Buf}

theorem FrameState.hasDrained_eq (st : FrameState) :
    st.hasDrained = (st != .init && st != .filling && st != .sealed) := by
  cases st <;> rfl

/-- A SEED's copy begins at once on an empty list, from a drained predecessor. -/
theorem Station.copyStarts_eq {p : FrameRecord} (hp : s.ftc.find (n - 1) = some p) :
    s.copyStarts n = (s.fie.isEmpty && p.state.hasDrained) := by
  simp only [Station.copyStarts, hp, Option.any_some, FrameState.hasDrained_eq]

theorem Station.copyStarts_of_not_held (hp : s.ftc.find (n - 1) = none) : s.copyStarts n = false := by
  simp only [Station.copyStarts, hp, Option.any_none, Bool.and_false]

theorem Station.addJob_copy_records (active : s.HeadActive) {p : FrameRecord} (hp : s.ftc.find (n - 1) = some p) :
    (s.addJob n .copy b).ftc = if s.copyStarts n then s.ftc.pinUp (n - 1) else s.ftc := by
  rw [Station.copyStarts_eq hp]
  cases hf : s.fie with
  | cons j js =>
    rw [Station.addJob_behind _ hf (active j js hf)]
    rfl
  | nil =>
    cases drained : p.state.hasDrained with
    | true =>
      rw [Station.addJob_copy_alone hf hp drained]
      rfl
    | false =>
      rw [Station.addJob_wait_alone hf fun q hq => Option.some.inj (hp.symm.trans hq) ▸ drained]
      rfl

/-- What a CLEAR or a SEED does to the records on a list whose head is active: a copy that starts pins its
source. -/
theorem Station.takeInit_ftc_of_active {md : InitMode} (colour : Pixel) (b : Buf) (active : s.HeadActive)
    (works : md ≠ .keep) :
    (s.takeInit n md colour b).ftc =
      if md = .seed ∧ s.copyStarts n = true then s.ftc.pinUp (n - 1) else s.ftc := by
  cases md with
  | keep => exact absurd rfl works
  | clear =>
    rw [show s.takeInit n .clear colour b = s.addJob n (.fill colour) b from rfl, Station.addJob_fill _ active]
    rfl
  | seed =>
    cases hp : s.ftc.find (n - 1) with
    | none =>
      rw [Station.takeInit_seed_missing _ _ hp,
        Station.addJob_fill (s := s.count .seedMissing) _ active, Station.copyStarts_of_not_held hp]
      rfl
    | some p =>
      rw [Station.takeInit_seed _ _ hp, Station.addJob_copy_records active hp]
      simp only [true_and]

/-- A record that is new stays outside an update by another frame's number. -/
theorem Ftc.onRecord_append (k : FrameNo) (f : FrameRecord → FrameRecord) {t : Ftc} {old : List FrameRecord}
    {r : FrameRecord} (records : t.records = old ++ [r]) (apart : k ≠ r.frame) :
    (t.onRecord k f).records = (old.map fun x => if x.frame = k then f x else x) ++ [r] := by
  rw [Ftc.onRecord_eq]
  simp only [records, List.map_append, List.map_cons, List.map_nil, if_neg apart.symm]

/-- Whatever the list holds, the initialisation of a new record leaves that record but for its state, and pins
at most one other. -/
theorem Station.takeInit_records {md : InitMode} (colour : Pixel) (b : Buf) {old : List FrameRecord}
    {r : FrameRecord} (records : s.ftc.records = old ++ [r]) (new : ∀ x ∈ old, x.frame ≠ r.frame)
    (init : r.state = .init) (unsealed : r.isSealed = false) :
    ∃ after : List FrameRecord, PinnedOne old after ∧ (md = .keep → after = old) ∧
      (s.takeInit r.frame md colour b).ftc = { s.ftc with records := after ++
        [{ r with state := if md = .keep then .filling else .init }] } := by
  have held : s.ftc.find r.frame = some r := by
    have none : old.find? (fun x => x.frame == r.frame) = none := by simpa using new
    simp [Ftc.find, records, List.find?_append, none]
  have worked (u : Ftc) (h : u = s.ftc ∨ ∃ (k : FrameNo) (p : FrameRecord), s.ftc.find k = some p ∧
      p.state.hasDrained = true ∧ u = s.ftc.pinUp k) :
      ∃ after : List FrameRecord, PinnedOne old after ∧ u = { s.ftc with records := after ++ [r] } := by
    rcases h with rfl | ⟨k, p, hp, drained, rfl⟩
    · exact ⟨old, .inl rfl, by rw [← records]⟩
    · have apart : k ≠ r.frame := by
        rintro rfl
        rw [Option.some.inj (hp.symm.trans held), init] at drained
        exact absurd drained (by decide)
      exact ⟨_, .inr ⟨k, rfl⟩,
        congrArg (fun l => { s.ftc with records := l }) (Ftc.onRecord_append k _ records apart)⟩
  cases md with
  | keep =>
    rw [Station.takeInit_keep _ _ held init unsealed]
    refine ⟨old, .inl rfl, fun _ => rfl, ?_⟩
    have same : (old.map fun x => if x.frame = r.frame then { x with state := .filling } else x) = old :=
      (List.map_congr_left fun x hx => if_neg (new x hx)).trans (List.map_id' _)
    simp only [Station.onFtc_ftc, Ftc.setState, Ftc.onRecord_eq, records, List.map_append, same, List.map_cons,
      List.map_nil, if_true]
  | clear =>
    obtain ⟨after, pinned, ftc⟩ := worked _ (Station.addJob_ftc r.frame (.fill colour) b s)
    refine ⟨after, pinned, nofun, ftc.trans ?_⟩
    simp [← init]
  | seed =>
    cases hp : s.ftc.find (r.frame - 1) with
    | none =>
      obtain ⟨after, pinned, ftc⟩ := worked _
        (Station.addJob_ftc r.frame (.fill ⟨0, 0, 0, 0⟩) b (s.count .seedMissing))
      rw [Station.takeInit_seed_missing _ _ hp]
      refine ⟨after, pinned, nofun, ftc.trans ?_⟩
      simp [← init]
    | some p =>
      obtain ⟨after, pinned, ftc⟩ := worked _ (Station.addJob_ftc r.frame .copy b s)
      rw [Station.takeInit_seed _ _ hp]
      refine ⟨after, pinned, nofun, ftc.trans ?_⟩
      simp [← init]

theorem Station.takeInit_tbi {md : InitMode} (colour : Pixel) (b : Buf) {r : FrameRecord}
    (hr : s.ftc.find n = some r) (init : r.state = .init) (unsealed : r.isSealed = false) :
    (s.takeInit n md colour b).tbi = s.tbi := by
  cases md with
  | keep =>
    rw [Station.takeInit_keep _ _ hr init unsealed]
    rfl
  | clear => exact (touches_addJob _ _ _ _).tbi (by decide)
  | seed =>
    cases hp : s.ftc.find (n - 1) with
    | none =>
      rw [Station.takeInit_seed_missing _ _ hp]
      exact (touches_addJob _ _ _ (s.count .seedMissing)).tbi (by decide)
    | some p =>
      rw [Station.takeInit_seed _ _ hp]
      exact (touches_addJob _ _ _ _).tbi (by decide)

end

end Sys2Proof.Machine
end

section
/-! PROOF. OPEN stands: O30 and O31 (R54, R56, R115, R116, R117). -/

namespace Sys2Proof.Machine

section
variable {s : State} {n : FrameNo} {b : Buf} {h : Heard} {mode : Byte} {colour : Option Pixel} {src : PartySet}
  {md : InitMode}

theorem Station.MayOpen.passedBy {s : Station} (may : s.MayOpen n mode src b) :
    (s.onTbi Tbi.passedBy).MayOpen n mode src b where
  member := may.member
  next := may.next
  window := may.window
  free := may.free
  lowest := may.lowest
  mode := may.mode
  sources := may.sources
  new := may.new

/-- The station that has bound a buffer to the record of an OPEN. -/
def Station.binds (b : Buf) (r : FrameRecord) (s : Station) : Station :=
  (s.onTbi Tbi.passedBy).onFtc (Ftc.bound b r)

/-- An OPEN stands at a MEMBER that may take it: the record is bound and its initialisation begins. -/
theorem exec_opens (ho : s.hearsOther .openFrame h (.openFrame n mode colour src))
    (may : s.MayOpen n mode src b) (known : InitMode.ofCode mode = some md) :
    exec (.openFrame (.whole h .clear)) s = .next (s.putStation
      ((s.toStation.binds b (FrameRecord.opened n b md colour src s.mbr.memberSet)).takeInit n md
        (colour.getD Pixel.zero) b)) := by
  have pass : decideOf .openFrame (wordParty h.word) (.openFrame n mode colour src) s.toStation = .pass .nothing :=
    decideOpen_of_admitted (p := wordParty h.word) (colour := colour) may.next may.window may.free may.mode
      may.sources.1 may.sources.2
  refine (exec_memberStands (k := .openFrame) ho may.member pass).trans ?_
  rw [show standsOf .openFrame = openStands from rfl, openStands_of_member rfl may.passedBy known]
  rfl

theorem Station.binds_find_other {s : Station} {r : FrameRecord} (b : Buf) {m : FrameNo} (other : m ≠ r.frame) :
    (s.binds b r).ftc.find m = s.ftc.find m :=
  Ftc.find_bound_other b other

theorem Station.binds_copyStarts (s : Station) (b : Buf) (r : FrameRecord) :
    (s.binds b r).copyStarts r.frame = s.copyStarts r.frame := by
  simp only [Station.copyStarts, Station.binds_find_other b (FrameNo.sub_one_ne r.frame)]
  rfl

/-- The pins that an OPEN leaves on the older records, on a list whose head is active. -/
theorem Station.binds_old {s : Station} {old : List FrameRecord} {r last : FrameRecord} (colour : Pixel)
    (active : s.HeadActive) (keeps : md = .keep → old = s.ftc.records)
    (records : ((s.binds b r).takeInit r.frame md colour b).ftc.records = old ++ [last]) :
    old = s.ftc.records.map fun x =>
      if md = .seed ∧ s.copyStarts r.frame = true ∧ x.frame = r.frame - 1 then { x with pins := x.pins + 1 } else x := by
  by_cases keep : md = .keep
  · simp [keeps keep, keep]
  · rw [Station.takeInit_ftc_of_active colour b (s := s.binds b r) active keep, Station.binds_copyStarts] at records
    by_cases pins : md = .seed ∧ s.copyStarts r.frame = true
    · rw [if_pos pins, Ftc.pinUp, Ftc.onRecord_append (r.frame - 1) _ (old := s.ftc.records) (r := r) rfl
        (FrameNo.sub_one_ne _)] at records
      simp only [pins.1, pins.2, true_and]
      exact (List.append_inj_left' records rfl).symm
    · rw [if_neg pins] at records
      have same : s.ftc.records ++ [r] = old ++ [last] := records
      rw [← List.append_inj_left' same rfl]
      refine ((List.map_congr_left fun x _ => if_neg fun all => pins ⟨all.1, all.2.1⟩).trans (List.map_id' _)).symm

theorem InitMode.ofCode_cases (h : mode.toNat ≤ 2) : ∃ md, InitMode.ofCode mode = some md ∧
    (md = .clear ↔ mode = 0) ∧ (md = .seed ↔ mode = 1) ∧ (md = .keep ↔ mode = 2) := by
  rcases InitMode.ofCode_of_le h with ⟨rfl, known⟩ | ⟨rfl, known⟩ | ⟨rfl, known⟩ <;>
    exact ⟨_, known, by decide, by decide, by decide⟩

theorem InitMode.eq_of_mode {mode : Byte} {md : InitMode} (clear : md = .clear ↔ mode = 0)
    (seed : md = .seed ↔ mode = 1) :
    (if mode = 0 then InitMode.clear else if mode = 1 then .seed else .keep) = md := by
  cases md <;> simp_all

end

/-- Settles O30: the record is bound, then at most one older record is pinned by its initialisation. -/
theorem openBindsABufferAndMakesTheRecord : Obligations.OpenBindsABufferAndMakesTheRecord := by
  refine ⟨fun h n mode colour src s ho hs => ?_, fun h n mode colour src b s ho may => ?_⟩
  · have stands := openStands_of_nonMember (s := s.toStation.onTbi Tbi.passedBy)
      (r := passedRecord .openFrame h (.openFrame n mode colour src) false .nothing) rfl hs
    refine ⟨_, exec_nonMemberStands (k := .openFrame) ho hs, ?_⟩
    rw [show standsOf .openFrame = openStands from rfl, stands]
    exact ⟨rfl, rfl, .of_touches (.step (touches_onTbi _ _) (touches_onFtc _ _) (by decide) (by decide))⟩
  · obtain ⟨md, known, clear, seed, keep⟩ := InitMode.ofCode_cases may.mode
    have new (x : FrameRecord) (hx : x ∈ s.ftc.records) : x.frame ≠ n := by
      simpa using List.find?_eq_none.mp may.new x hx
    have held : (s.toStation.binds b (FrameRecord.opened n b md colour src s.mbr.memberSet)).ftc.find n =
        some (FrameRecord.opened n b md colour src s.mbr.memberSet) :=
      Ftc.find_bound_self (t := s.ftc) (r := FrameRecord.opened n b md colour src s.mbr.memberSet) may.new
    have unsealed := FrameRecord.opened_unsealed n b md colour s.mbr.memberSet may.sources.1
    obtain ⟨old, pinned, keeps, ftc⟩ := Station.takeInit_records (md := md) (colour.getD Pixel.zero) b
      (s := s.toStation.binds b (FrameRecord.opened n b md colour src s.mbr.memberSet)) (old := s.ftc.records) rfl new
      rfl unsealed
    have touched : Touches [.tbi, .ftc, .fie, .stu] s.toStation
        ((s.toStation.binds b (FrameRecord.opened n b md colour src s.mbr.memberSet)).takeInit n md
          (colour.getD Pixel.zero) b) := by
      refine .step (l₁ := [.tbi, .ftc]) ?_ (touches_takeInit _ _ _ _ _) (by decide) (by decide)
      exact .step (touches_onTbi _ _) (touches_onFtc _ _) (by decide) (by decide)
    refine ⟨_, _, old, exec_opens ho may known, Station.takeInit_tbi _ _ held rfl unsealed, congrArg Ftc.lastOpened ftc,
      (congrArg Ftc.f0 ftc).trans ?_, (congrArg Ftc.refresh ftc :), ?_, fun c other => ?_, congrArg Ftc.records ftc,
      pinned.unpinned, fun active => ?_, ?_, .of_touches touched⟩
    · show s.ftc.f0.or (some n) = _
      cases s.ftc.f0 <;> rfl
    · exact (congrArg (fun u => u.buffers.get b) ftc).trans ((Ftc.bound_get b b).trans (if_pos rfl))
    · exact (congrArg (fun u => u.buffers.get c) ftc).trans ((Ftc.bound_get b c).trans (if_neg other))
    · have after := Station.binds_old (colour.getD Pixel.zero) active keeps (congrArg Ftc.records ftc)
      simp only [seed] at after
      exact after
    · simp only [FrameRecord.opened, InitMode.eq_of_mode clear seed, clear, keep]

theorem Station.takeInit_fill_job {s : Station} (n : FrameNo) (colour : Pixel) (b : Buf) (active : s.HeadActive) :
    s.takeInit n .clear colour b = s.onFie fun js =>
      js ++ [InitJob.made n (.fill colour) b none (if s.fie.isEmpty then .running else .queued)] :=
  Station.addJob_fill colour active

/-- Settles O31, mode by mode and predecessor by predecessor. -/
theorem openStartsTheInitialisation : Obligations.OpenStartsTheInitialisation := by
  intro h n mode colour src b s ho may active
  obtain ⟨md, known, clear, seed, keep⟩ := InitMode.ofCode_cases may.mode
  have held : (s.toStation.binds b (FrameRecord.opened n b md colour src s.mbr.memberSet)).ftc.find n =
      some (FrameRecord.opened n b md colour src s.mbr.memberSet) :=
    Ftc.find_bound_self (t := s.ftc) (r := FrameRecord.opened n b md colour src s.mbr.memberSet) may.new
  have before : (s.toStation.binds b (FrameRecord.opened n b md colour src s.mbr.memberSet)).ftc.find (n - 1) =
      s.ftc.find (n - 1) := Station.binds_find_other b (FrameNo.sub_one_ne n)
  have bound : (s.toStation.binds b (FrameRecord.opened n b md colour src s.mbr.memberSet)).HeadActive := active
  refine ⟨_, exec_opens ho may known, fun two => ?_, fun c zero hc => ?_, fun one missing => ?_, fun p one hp => ?_⟩
  · cases keep.mpr two
    rw [Station.takeInit_keep _ _ held rfl (FrameRecord.opened_unsealed _ _ _ _ _ may.sources.1)]
    exact ⟨rfl, rfl⟩
  · cases clear.mpr zero
    rw [Station.takeInit_fill_job _ _ _ bound, hc]
    exact ⟨rfl, rfl⟩
  · cases seed.mpr one
    rw [Station.takeInit_seed_missing _ _ (before.trans missing),
      Station.addJob_fill (s := Station.count .seedMissing
        (s.toStation.binds b (FrameRecord.opened n b .seed colour src s.mbr.memberSet))) _ bound]
    exact ⟨rfl, rfl⟩
  · cases seed.mpr one
    have found := before.trans hp
    rw [Station.takeInit_seed _ _ found]
    refine ⟨(touches_addJob _ _ _ _).stu (by decide), fun behind => ?_, fun alone early => ?_, fun alone i f q => ?_⟩
    · obtain ⟨j, js, hf⟩ := List.exists_cons_of_ne_nil behind
      rw [Station.addJob_behind (s := s.toStation.binds b _) .copy hf (active j js hf)]
      rfl
    · have undrained : p.state.hasDrained = false := by rcases early with e | e | e <;> rw [e] <;> rfl
      rw [Station.addJob_wait_alone (s := s.toStation.binds b _) alone fun q hq =>
        Option.some.inj (found.symm.trans hq) ▸ undrained]
      rfl
    · have drained : p.state.hasDrained = true := by
        rw [FrameState.hasDrained_eq]
        simp [i, f, q]
      rw [Station.addJob_copy_alone (s := s.toStation.binds b _) alone found drained]
      refine ⟨rfl, ?_⟩
      exact (Ftc.find_onRecord_self _ _ (fun r => { r with pins := r.pins + 1 }) fun _ => rfl).trans
        (congrArg (Option.map _) found)

end Sys2Proof.Machine
end

section
/-! PROOF. CLOSE and READY (R60, R62, R77, R78). -/

namespace Sys2Proof.Machine

section
variable {s : Station} {n : FrameNo} {r : FrameRecord}

/-! ## A record that may be sealed (R60) -/

theorem Station.applySeal_of_held (hr : s.ftc.find n = some r) :
    s.applySeal n =
      if r.state = .filling ∧ r.isSealed = true then
        if 0 < r.pending then s.onFtc (Ftc.setState n .sealed) else s.drain n
      else s := by
  simp only [Station.applySeal, hr]

theorem Station.applySeal_of_not_held (hr : s.ftc.find n = none) : s.applySeal n = s := by
  simp only [Station.applySeal, hr]

/-- A record after the decision whether it is sealed, and whether it then drains. -/
def FrameRecord.settled (waits : Bool) (r : FrameRecord) : FrameRecord :=
  if r.state = .filling ∧ r.isSealed = true then
    if 0 < r.pending then { r with state := .sealed } else r.drainedAs waits
  else r

/-- The record drains at the decision. -/
def FrameRecord.drains (r : FrameRecord) : Bool :=
  r.state == .filling && r.isSealed && r.pending == 0

theorem FrameRecord.drains_iff (r : FrameRecord) :
    r.drains = true ↔ (r.state = .filling ∧ r.isSealed = true) ∧ ¬0 < r.pending := by
  simp [FrameRecord.drains]

theorem FrameRecord.settled_of_drains (waits : Bool) (h : r.drains = true) : r.settled waits = r.drainedAs waits := by
  obtain ⟨sealed_, none⟩ := r.drains_iff.mp h
  rw [FrameRecord.settled, if_pos sealed_, if_neg none]

theorem FrameRecord.settled_eq (waits : Bool) (r : FrameRecord) :
    r.settled waits = { r with
      state := if r.state = .filling ∧ r.isSealed = true then (if 0 < r.pending then .sealed else .drained) else r.state
      pins := if r.drains && waits then r.pins + 1 else r.pins } := by
  by_cases sealed_ : r.state = .filling ∧ r.isSealed = true
  · by_cases pending : 0 < r.pending
    · have stays : r.drains = false := by
        rw [← Bool.not_eq_true, FrameRecord.drains_iff]
        exact fun h => h.2 pending
      simp [FrameRecord.settled, sealed_, pending, stays]
    · have drains : r.drains = true := r.drains_iff.mpr ⟨sealed_, pending⟩
      simp [FrameRecord.settled, FrameRecord.drainedAs, sealed_, pending, drains]
  · have stays : r.drains = false := by
      rw [← Bool.not_eq_true, FrameRecord.drains_iff]
      exact fun h => sealed_ h.1
    simp only [FrameRecord.settled, if_neg sealed_, stays, Bool.false_and, Bool.false_eq_true, if_false]

/-- An open record is DRAINED after the decision exactly when it drains. -/
theorem FrameRecord.settled_drained_iff (waits : Bool) {r : FrameRecord} (opened : r.state ≠ .drained) :
    (r.settled waits).state = .drained ↔ r.drains = true := by
  rw [FrameRecord.settled_eq, FrameRecord.drains_iff]
  dsimp only
  split
  · split <;> simp_all
  · next other => exact ⟨fun h => absurd h opened, fun h => absurd h.1 other⟩

/-- The decision moves the bus interface, the record of the frame and the init list, as far as it drains. -/
theorem Station.applySeal_moves (hr : s.ftc.find n = some r) :
    (s.applySeal n).tbi = { s.tbi with queue := s.tbi.queue ++ if r.drains then s.readyEntry n else [] } ∧
    (s.applySeal n).fie = (if r.drains && s.copyWaits n then copyBegun r.buffer s.fie else s.fie) ∧
    (s.applySeal n).ftc.find n = some (r.settled (s.copyWaits n)) ∧
    (∀ m, m ≠ n → (s.applySeal n).ftc.find m = s.ftc.find m) ∧
    (s.applySeal n).ftc = { s.ftc with records := (s.applySeal n).ftc.records } := by
  rw [Station.applySeal_of_held hr]
  by_cases sealed_ : r.state = .filling ∧ r.isSealed = true
  · rw [if_pos sealed_]
    by_cases pending : 0 < r.pending
    · have stays : r.drains = false := by
        rw [← Bool.not_eq_true, FrameRecord.drains_iff]
        exact fun h => h.2 pending
      rw [if_pos pending, stays]
      refine ⟨by simp, by simp, ?_, fun m other => Ftc.find_onRecord_other other _ _ fun _ => rfl, rfl⟩
      rw [FrameRecord.settled, if_pos sealed_, if_pos pending]
      exact (Ftc.find_onRecord_self _ _ (fun r => { r with state := .sealed }) fun _ => rfl).trans
        (congrArg (Option.map _) hr)
    · have drains : r.drains = true := r.drains_iff.mpr ⟨sealed_, pending⟩
      rw [if_neg pending, drains, Station.drain_of_held hr, FrameRecord.settled_of_drains _ drains]
      refine ⟨rfl, ?_, ?_, fun m other => Ftc.find_onRecord_other other _ _ fun _ => rfl, rfl⟩
      · cases s.copyWaits n <;> rfl
      · exact (Ftc.find_onRecord_self _ _ (FrameRecord.drainedAs _) fun _ => rfl).trans (congrArg (Option.map _) hr)
  · have stays : r.drains = false := by
      rw [← Bool.not_eq_true, FrameRecord.drains_iff]
      exact fun h => sealed_ h.1
    rw [if_neg sealed_, stays, FrameRecord.settled, if_neg sealed_]
    exact ⟨by simp, by simp, hr, fun _ _ => rfl, rfl⟩

/-! ## The copy that waits (R116, R117) -/

/-- The head of the list, as it waits for frame n. -/
theorem Station.copyWaits_iff (s : Station) (n : FrameNo) : s.copyWaits n = true ↔
    ∃ j js, s.fie = j :: js ∧ j.work = .copy ∧ j.phase = .waiting ∧ j.frame = n + 1 := by
  unfold Station.copyWaits
  cases hf : s.fie with
  | nil => simp
  | cons j js => simp [and_assoc]

theorem copyBegun_ne {j : InitJob} {js : List InitJob} (b : Buf) (waiting : j.phase = .waiting) :
    copyBegun b (j :: js) ≠ j :: js := by
  intro same
  have phase : InitPhase.running = j.phase := congrArg InitJob.phase (List.cons.inj same).1
  rw [waiting] at phase
  exact absurd phase (by decide)

/-- The list moves exactly where a copy begins. -/
theorem Station.copyBegun_same_iff (drains : Bool) (b : Buf) (n : FrameNo) (s : Station) :
    (if drains && s.copyWaits n then copyBegun b s.fie else s.fie) = s.fie ↔ (drains && s.copyWaits n) = false := by
  cases begins : drains && s.copyWaits n with
  | false => simp
  | true =>
    obtain ⟨j, js, list, -, waiting, -⟩ := (s.copyWaits_iff n).mp (Bool.and_eq_true_iff.mp begins).2
    simp only [if_true, list]
    exact iff_of_false (copyBegun_ne b waiting) (by simp)

end

/-! ## CLOSE (R62) -/

section
variable {s : Station} {n : FrameNo}

theorem closeStands_of_nonMember {r : Receiving} (hm : r.message = some (.closeFrame n))
    (hs : s.mbr.state ≠ .member) : closeStands r s = s := by
  simp only [closeStands, hm, hs, if_false]

theorem closeStands_of_member {r : Receiving} (hm : r.message = some (.closeFrame n))
    (hs : s.mbr.state = .member) : closeStands r s = s.closeRecord n r.sender := by
  simp only [closeStands, hm, hs, if_true]

/-- A record that a source has closed. -/
def FrameRecord.closedBy (p : Nat) (r : FrameRecord) : FrameRecord :=
  { r with closedSources := r.closedSources ||| partyBit p }

theorem Station.closeRecord_eq (n : FrameNo) (p : Nat) (s : Station) :
    s.closeRecord n p = (s.onFtc (Ftc.onRecord n (FrameRecord.closedBy p))).applySeal n := rfl

theorem Station.closeRecord_moves (p : Nat) {r : FrameRecord} (hr : s.ftc.find n = some r) :
    (s.closeRecord n p).tbi =
      { s.tbi with queue := s.tbi.queue ++ if (r.closedBy p).drains then s.readyEntry n else [] } ∧
    (s.closeRecord n p).fie =
      (if (r.closedBy p).drains && s.copyWaits n then copyBegun r.buffer s.fie else s.fie) ∧
    (s.closeRecord n p).ftc.find n = some ((r.closedBy p).settled (s.copyWaits n)) ∧
    (∀ m, m ≠ n → (s.closeRecord n p).ftc.find m = s.ftc.find m) ∧
    (s.closeRecord n p).ftc = { s.ftc with records := (s.closeRecord n p).ftc.records } := by
  have closed : (s.ftc.onRecord n (FrameRecord.closedBy p)).find n = some (r.closedBy p) :=
    (Ftc.find_onRecord_self _ _ (FrameRecord.closedBy p) fun _ => rfl).trans (congrArg (Option.map _) hr)
  have before (m : FrameNo) (hm : m ≠ n) : (s.ftc.onRecord n (FrameRecord.closedBy p)).find m = s.ftc.find m :=
    Ftc.find_onRecord_other hm _ _ fun _ => rfl
  have entry : (s.onFtc (Ftc.onRecord n (FrameRecord.closedBy p))).readyEntry n = s.readyEntry n :=
    Station.readyEntry_congr (before _ (FrameNo.sub_one_ne n)) rfl
  obtain ⟨tbi, fie, self, other, table⟩ :=
    Station.applySeal_moves (s := s.onFtc (Ftc.onRecord n (FrameRecord.closedBy p))) closed
  rw [entry] at tbi
  exact ⟨tbi, fie, self, fun m hm => (other m hm).trans (before m hm), table⟩

theorem Station.closeRecord_of_not_held (p : Nat) (hr : s.ftc.find n = none) : s.closeRecord n p = s := by
  have none (r : FrameRecord) (h : r ∈ s.ftc.records) : (r.frame == n) ≠ true := List.find?_eq_none.mp hr r h
  have records : (s.ftc.records.map fun r => if r.frame == n then r.closedBy p else r) = s.ftc.records :=
    (List.map_congr_left fun x hx => if_neg (none x hx)).trans (List.map_id' _)
  have kept : s.onFtc (Ftc.onRecord n (FrameRecord.closedBy p)) = s := by
    rw [Station.onFtc, Ftc.onRecord, records]
  rw [Station.closeRecord_eq, kept, Station.applySeal_of_not_held hr]

end

/-- Settles O33, by whether the record so closed is sealed and whether it then drains. -/
theorem closeSealsTheRecord : Obligations.CloseSealsTheRecord := by
  intro h n s ho
  refine ⟨fun hs => ?_, fun hs missing f0 => ?_, fun r hs hr opened required fresh => ?_⟩
  · refine ⟨_, exec_nonMemberStands (k := .closeFrame) ho hs, ?_⟩
    rw [show standsOf .closeFrame = closeStands from rfl,
      closeStands_of_nonMember (s := s.toStation.onTbi Tbi.passedBy) rfl hs]
    exact ⟨rfl, .of_touches (touches_onTbi _ _)⟩
  · have pass : decideOf .closeFrame (wordParty h.word) (.closeFrame n) s.toStation = .pass .nothing := by
      refine (decideClose_of_not_held _ missing).trans ?_
      rw [(Ftc.f0Passes_iff _ _).mpr f0]
      rfl
    refine ⟨_, exec_memberStands (k := .closeFrame) ho hs pass, ?_⟩
    rw [show standsOf .closeFrame = closeStands from rfl,
      closeStands_of_member (s := s.toStation.onTbi Tbi.passedBy) rfl hs,
      Station.closeRecord_of_not_held (s := s.toStation.onTbi Tbi.passedBy) _ missing]
    exact ⟨rfl, .of_touches (touches_onTbi _ _)⟩
  · have pass : decideOf .closeFrame (wordParty h.word) (.closeFrame n) s.toStation = .pass .nothing :=
      decideClose_of_open_source hr ((FrameState.isOpen_iff _).mpr opened) required fresh
    obtain ⟨tbi, fie, self, other, table⟩ := Station.closeRecord_moves (s := s.toStation.onTbi Tbi.passedBy)
      (wordParty h.word) hr
    have undrained : r.state ≠ .drained := by rcases opened with state | state <;> rw [state] <;> decide
    have drains := FrameRecord.settled_drained_iff (s.toStation.copyWaits n) (r := r.closedBy (wordParty h.word)) undrained
    have record := FrameRecord.settled_eq (s.toStation.copyWaits n) (r.closedBy (wordParty h.word))
    have stands := closeStands_of_member (s := s.toStation.onTbi Tbi.passedBy)
      (r := passedRecord .closeFrame h (.closeFrame n) false .nothing) rfl hs
    refine ⟨s.putStation ((s.toStation.onTbi Tbi.passedBy).closeRecord n (wordParty h.word)),
      (r.closedBy (wordParty h.word)).settled (s.toStation.copyWaits n),
      (exec_memberStands (k := .closeFrame) ho hs pass).trans (congrArg (fun u => Host.Outcome.next (s.putStation u)) stands), self,
      ?_, ?_, fun same => ?_, fun moved => ?_, ?_, ?_, ?_, other, (congrArg Ftc.buffers table :),
      (congrArg Ftc.lastOpened table :), (congrArg Ftc.f0 table :), (congrArg Ftc.refresh table :), .of_touches ?_⟩
    · rw [record]
      rfl
    · rw [record]
      rfl
    · have kept := (Station.copyBegun_same_iff _ r.buffer n s.toStation).mp (fie.symm.trans same)
      rw [record]
      exact if_neg (by rw [FrameRecord.closedBy] at kept; exact Bool.eq_false_iff.mp kept)
    · have begins : ((r.closedBy (wordParty h.word)).drains && s.toStation.copyWaits n) = true := by
        refine Bool.of_not_eq_false fun kept => moved (fie.trans ?_)
        exact (Station.copyBegun_same_iff _ r.buffer n s.toStation).mpr kept
      rw [record]
      exact if_pos begins
    · rw [record]
      simp only [FrameRecord.closedBy, FrameRecord.isSealed, beq_iff_eq]
      exact ite_congr rfl (fun _ => rfl) fun _ => rfl
    · refine tbi.trans ?_
      simp only [drains, Station.readyEntry]
      cases (r.closedBy (wordParty h.word)).drains <;> simp [Tbi.passedBy]
    · refine fie.trans ?_
      show (if (r.closedBy (wordParty h.word)).drains && s.toStation.copyWaits n then copyBegun r.buffer s.fie
        else s.fie) = _
      simp only [drains]
      cases list : s.fie with
      | nil => split <;> rfl
      | cons j js => simp [Station.copyWaits, list, copyBegun, and_assoc]
    · exact (touches_onTbi _ _).step (touches_closeRecord _ _ _) (by decide) (by decide)

/-! ## READY (R77, R78) -/

theorem readyStands_of_nonMember {s : Station} {n : FrameNo} {r : Receiving} (hm : r.message = some (.ready n))
    (hs : s.mbr.state ≠ .member) : readyStands r s = s := by
  simp only [readyStands, hm, hs, if_false]

theorem readyStands_of_member {s : Station} {n : FrameNo} {r : Receiving} (hm : r.message = some (.ready n))
    (hs : s.mbr.state = .member) :
    readyStands r s = s.onFtc (Ftc.onRecord n (FrameRecord.hearReady r.sender r.own)) := by
  simp only [readyStands, hm, hs, if_true]

theorem exec_readyStands {h : Heard} {n : FrameNo} {own : Bool} {before : Tbi} {s : State}
    (ho : (own = false ∧ s.hearsOther .ready h (.ready n) ∧ before = s.tbi.passedBy) ∨
      (own = true ∧ (∃ e, s.hearsOwn .ready h (.ready n) e) ∧ before = s.tbi.ownPassed)) :
    exec (.ready (.whole h .clear)) s = .next (s.putStation
      (readyStands (passedRecord .ready h (.ready n) own .nothing) (s.toStation.onTbi fun _ => before))) := by
  rcases ho with ⟨rfl, ho, rfl⟩ | ⟨rfl, ⟨e, ho⟩, rfl⟩
  · exact exec_passedStands (k := .ready) ho rfl
  · exact exec_ownStands (k := .ready) ho

/-- Settles O35: the record of the frame hears the sender, at a MEMBER. -/
theorem readyJoinsTheReadyStations : Obligations.ReadyJoinsTheReadyStations := by
  intro h n s own before ho
  refine ⟨_, exec_readyStands ho, ?_⟩
  by_cases hs : s.mbr.state = .member
  · rw [readyStands_of_member (s := s.toStation.onTbi fun _ => before) rfl hs]
    refine ⟨rfl, fun other => absurd hs other, fun _ => Ftc.onRecord_eq _ _ _,
      .of_touches (.step (touches_onTbi _ _) (touches_onFtc _ _) (by decide) (by decide))⟩
  · rw [readyStands_of_nonMember (s := s.toStation.onTbi fun _ => before) rfl hs]
    exact ⟨rfl, fun _ => rfl, fun member => absurd member hs, .of_touches ((touches_onTbi _ _).mono (by decide))⟩

end Sys2Proof.Machine
end

section
/-! PROOF. DROP: the open records lose a source, and each one so sealed is settled in turn (R60, R63). -/

namespace Sys2Proof.Machine

/-! ## Settling the records of a list of frames, one after another -/

/-- Frame n drains when its record is settled. -/
def Ftc.drainsAt (t : Ftc) (n : FrameNo) : Bool := (t.find n).any FrameRecord.drains

theorem Ftc.drainsAt_iff (t : Ftc) (n : FrameNo) :
    t.drainsAt n = true ↔ ∃ r, t.find n = some r ∧ r.drains = true := by
  cases held : t.find n <;> simp [Ftc.drainsAt, held]

theorem FrameRecord.settled_settled (w w' : Bool) (r : FrameRecord) : (r.settled w).settled w' = r.settled w := by
  by_cases sealed_ : r.state = .filling ∧ r.isSealed = true
  · have moved : (r.settled w).state ≠ .filling := by
      rw [FrameRecord.settled_eq]
      simp only [sealed_, and_self, if_true]
      split <;> decide
    exact if_neg fun h => moved h.1
  · have same (v : Bool) : r.settled v = r := if_neg sealed_
    rw [same, same]

theorem FrameRecord.settled_not_drains (w : Bool) (r : FrameRecord) : (r.settled w).drains = false := by
  by_cases sealed_ : r.state = .filling ∧ r.isSealed = true
  · have moved : (r.settled w).state ≠ .filling := by
      rw [FrameRecord.settled_eq]
      simp only [sealed_, and_self, if_true]
      split <;> decide
    rw [← Bool.not_eq_true, FrameRecord.drains_iff]
    exact fun h => moved h.1.1
  · rw [show r.settled w = r from if_neg sealed_, ← Bool.not_eq_true, FrameRecord.drains_iff]
    exact fun h => sealed_ h.1

theorem FrameRecord.settled_hasCommitted (w : Bool) (r : FrameRecord) :
    (r.settled w).state.hasCommitted = r.state.hasCommitted := by
  rw [FrameRecord.settled_eq]
  dsimp only
  split
  · next sealed_ =>
    rw [sealed_.1]
    split <;> rfl
  · rfl

/-- What a station has become once the records of the frames in `settled` are settled; those in `drained` have
drained, in that order. -/
structure Settling (s u : Station) (settled drained : List FrameNo) : Prop where
  nodup : drained.Nodup
  sublist : drained.Sublist settled
  mem_iff : ∀ n, n ∈ drained ↔ n ∈ settled ∧ s.ftc.drainsAt n = true
  tbi : u.tbi = { s.tbi with queue := s.tbi.queue ++ drained.flatMap s.readyEntry }
  still : (∀ n ∈ drained, s.copyWaits n = false) → u.fie = s.fie
  begun : ∀ n r, n ∈ drained → s.copyWaits n = true → s.ftc.find n = some r → u.fie = copyBegun r.buffer s.fie
  records : ∀ n, u.ftc.find n =
    (s.ftc.find n).map fun r => if n ∈ settled then r.settled (s.copyWaits n) else r
  table : u.ftc = { s.ftc with records := u.ftc.records }

theorem Settling.refl (s : Station) : Settling s s [] [] where
  nodup := .nil
  sublist := .slnil
  mem_iff := by simp
  tbi := by simp
  still _ := rfl
  begun := by simp
  records := by simp
  table := rfl

/-- Only one frame can be the one a copy waits for. -/
theorem Station.copyWaits_unique {s : Station} {m n : FrameNo} (hm : s.copyWaits m = true)
    (hn : s.copyWaits n = true) : m = n := by
  obtain ⟨j, js, hj, -, -, fm⟩ := (s.copyWaits_iff m).mp hm
  obtain ⟨k, ks, hk, -, -, fn⟩ := (s.copyWaits_iff n).mp hn
  obtain ⟨rfl, -⟩ := List.cons.inj (hj.symm.trans hk)
  exact (FrameNo.sub_one_eq_iff _ _).mpr fm ▸ (FrameNo.sub_one_eq_iff _ _).mpr fn

theorem Station.copyWaits_begun {s u : Station} {b : Buf} (h : u.fie = copyBegun b s.fie) (n : FrameNo) :
    u.copyWaits n = false := by
  unfold Station.copyWaits
  rw [h]
  cases s.fie with
  | nil => rfl
  | cons j js => simp [copyBegun]

section
variable {s u : Station} {settled drained : List FrameNo}

theorem Settling.committed (h : Settling s u settled drained) (n : FrameNo) :
    u.ftc.predecessorCommitted n = s.ftc.predecessorCommitted n := by
  simp only [Ftc.predecessorCommitted, h.records]
  cases s.ftc.find (n - 1) with
  | none => rfl
  | some r =>
    simp only [Option.map_some]
    split
    · exact r.settled_hasCommitted _
    · rfl

theorem Station.mem_readyEntry {s : Station} {n : FrameNo} {d : TxEntry} (h : d ∈ s.readyEntry n) :
    d.msg = .ready n := by
  unfold Station.readyEntry at h
  split at h
  · rw [List.mem_singleton.mp h]
  · simp at h

/-- A frame that has not drained yet finds the queue as it stood, as far as its READY goes. -/
theorem Settling.readyEntry (h : Settling s u settled drained) {n : FrameNo} (fresh : n ∉ drained) :
    u.readyEntry n = s.readyEntry n := by
  have others : (drained.flatMap s.readyEntry).all (fun e => e.msg != .ready n) = true := by
    simp only [List.all_eq_true, List.mem_flatMap, bne_iff_ne]
    rintro e ⟨m, hm, he⟩ same
    rw [Station.mem_readyEntry he] at same
    exact fresh (TxMsg.ready.inj same ▸ hm)
  simp only [Station.readyEntry, h.committed, h.tbi, List.all_append, others, Bool.and_true]

/-- A frame that has not drained yet finds the copy at the head of the list as it stood. -/
theorem Settling.copyWaits (h : Settling s u settled drained) {n : FrameNo} (fresh : n ∉ drained) :
    u.copyWaits n = s.copyWaits n := by
  by_cases begins : ∃ m ∈ drained, s.copyWaits m = true
  · obtain ⟨m, hm, waits⟩ := begins
    obtain ⟨r, hr, -⟩ := (Ftc.drainsAt_iff _ _).mp ((h.mem_iff m).mp hm).2
    rw [Station.copyWaits_begun (h.begun m r hm waits hr) n]
    refine (Bool.eq_false_iff.mpr fun other => fresh ?_).symm
    exact Station.copyWaits_unique waits other ▸ hm
  · have none : ∀ m ∈ drained, s.copyWaits m = false := fun m hm =>
      Bool.eq_false_iff.mpr fun waits => begins ⟨m, hm, waits⟩
    exact Station.copyWaits_congr (h.still none) n

theorem FrameRecord.settled_of_not_drains {r : FrameRecord} (stays : r.drains = false) (w w' : Bool) :
    r.settled w = r.settled w' := by
  simp only [FrameRecord.settled_eq, stays, Bool.false_and]

/-- A frame that does not drain: only its own record can move. -/
theorem Settling.stays (h : Settling s u settled drained) {n : FrameNo}
    (stays : ∀ r, u.ftc.find n = some r → r.drains = false) :
    Settling s (u.applySeal n) (settled ++ [n]) drained := by
  have found := h.records n
  have mem (m : FrameNo) : m ∈ drained ↔ m ∈ settled ++ [n] ∧ s.ftc.drainsAt m = true := by
    rw [h.mem_iff m, List.mem_append, List.mem_singleton]
    refine ⟨fun all => ⟨.inl all.1, all.2⟩, fun ⟨listed, drains⟩ => ⟨listed.elim id ?_, drains⟩⟩
    rintro rfl
    obtain ⟨r, hr, rdrains⟩ := (Ftc.drainsAt_iff _ _).mp drains
    refine Classical.byContradiction fun fresh => ?_
    rw [hr, Option.map_some, if_neg fresh] at found
    simp [stays r found] at rdrains
  cases hr : s.ftc.find n with
  | none =>
    rw [Station.applySeal_of_not_held (by rw [found, hr]; rfl)]
    refine { h with sublist := h.sublist.trans (List.sublist_append_left _ _), mem_iff := mem, records := fun m => ?_ }
    rw [h.records m]
    by_cases same : m = n
    · rw [same, hr]
      rfl
    · simp [same]
  | some r =>
    rw [hr, Option.map_some] at found
    obtain ⟨tbi, fie, self, other, table⟩ := Station.applySeal_moves found
    have idle := stays _ found
    rw [idle] at tbi fie
    refine {
      nodup := h.nodup
      sublist := h.sublist.trans (List.sublist_append_left _ _)
      mem_iff := mem
      tbi := by simpa [h.tbi] using tbi
      still := fun none => fie.trans (h.still none)
      begun := fun m x hm waits hx => fie.trans (h.begun m x hm waits hx)
      records := fun m => ?_
      table := table.trans (congrArg (fun t => { t with records := (u.applySeal n).ftc.records }) h.table) }
    by_cases same : m = n
    · subst same
      rw [self, hr, Option.map_some, if_pos (List.mem_append_right _ (List.mem_singleton_self _))]
      by_cases old : m ∈ settled
      · rw [if_pos old, FrameRecord.settled_settled]
      · rw [if_neg old] at idle ⊢
        rw [FrameRecord.settled_of_not_drains idle]
    · rw [other m same, h.records m]
      simp [same]

/-- A frame that drains is announced, and a copy that waits for it begins. -/
theorem Settling.drains (h : Settling s u settled drained) {n : FrameNo} {r : FrameRecord}
    (found : u.ftc.find n = some r) (drains : r.drains = true) :
    Settling s (u.applySeal n) (settled ++ [n]) (drained ++ [n]) := by
  obtain ⟨tbi, fie, self, other, table⟩ := Station.applySeal_moves found
  have records := h.records n
  rw [found] at records
  obtain ⟨x, hx, same⟩ := Option.map_eq_some_iff.mp records.symm
  have fresh : n ∉ settled := fun old => by
    rw [← same, if_pos old, FrameRecord.settled_not_drains] at drains
    exact Bool.false_ne_true drains
  rw [if_neg fresh] at same
  subst same
  have undrained : n ∉ drained := fun old => fresh ((h.mem_iff n).mp old).1
  rw [drains, h.readyEntry undrained] at tbi
  rw [drains, h.copyWaits undrained, Bool.true_and] at fie
  rw [h.copyWaits undrained] at self
  have last : n ∈ settled ++ [n] := List.mem_append_right _ (List.mem_singleton_self _)
  exact {
    nodup := List.nodup_append.mpr ⟨h.nodup, List.pairwise_singleton _ n, fun a ha b hb => by
      rw [List.mem_singleton.mp hb]
      rintro rfl
      exact undrained ha⟩
    sublist := h.sublist.append (List.Sublist.refl _)
    mem_iff := fun m => by
      simp only [List.mem_append, List.mem_singleton, h.mem_iff m]
      refine ⟨?_, ?_⟩
      · rintro (⟨old, d⟩ | rfl)
        · exact ⟨.inl old, d⟩
        · exact ⟨.inr rfl, (Ftc.drainsAt_iff _ _).mpr ⟨x, hx, drains⟩⟩
      · rintro ⟨old | rfl, d⟩
        · exact .inl ⟨old, d⟩
        · exact .inr rfl
    tbi := by simpa [h.tbi] using tbi
    still := fun none => by
      rw [none n (List.mem_append_right _ (List.mem_singleton_self _))] at fie
      exact fie.trans (h.still fun m hm => none m (List.mem_append_left _ hm))
    begun := fun m y hm waits hy => by
      rcases List.mem_append.mp hm with old | new
      · have idle : s.copyWaits n = false := Bool.eq_false_iff.mpr fun here =>
          undrained (Station.copyWaits_unique waits here ▸ old)
        rw [idle] at fie
        exact fie.trans (h.begun m y old waits hy)
      · obtain rfl := List.mem_singleton.mp new
        rw [waits] at fie
        have still : u.fie = s.fie := h.still fun k hk => Bool.eq_false_iff.mpr fun here =>
          undrained (Station.copyWaits_unique waits here ▸ hk)
        rw [Option.some.inj (hx.symm.trans hy)] at fie
        exact fie.trans (by rw [still]; rfl)
    records := fun m => by
      by_cases same : m = n
      · subst same
        rw [self, hx, Option.map_some, if_pos last]
      · rw [other m same, h.records m]
        simp [same]
    table := table.trans (congrArg (fun t => { t with records := (u.applySeal n).ftc.records }) h.table) }

theorem Settling.step (h : Settling s u settled drained) (n : FrameNo) :
    ∃ drained', Settling s (u.applySeal n) (settled ++ [n]) drained' := by
  by_cases drains : ∃ r, u.ftc.find n = some r ∧ r.drains = true
  · obtain ⟨r, found, drains⟩ := drains
    exact ⟨_, h.drains found drains⟩
  · exact ⟨drained, h.stays fun r hr => Bool.eq_false_iff.mpr fun d => drains ⟨r, hr, d⟩⟩

theorem Settling.fold (l : List FrameNo) (h : Settling s u settled drained) :
    ∃ drained', Settling s (l.foldl (fun v n => v.applySeal n) u) (settled ++ l) drained' := by
  induction l generalizing u settled drained with
  | nil => exact ⟨drained, by simpa using h⟩
  | cons n l ih =>
    obtain ⟨next, step⟩ := h.step n
    obtain ⟨last, rest⟩ := ih step
    exact ⟨last, by simpa using rest⟩

end

/-! ## DROP (R63) -/

theorem FrameRecord.dropSource_keeps (p : Nat) (r : FrameRecord) :
    r.dropSource p = { r with
      requiredSources := (r.dropSource p).requiredSources, closedSources := (r.dropSource p).closedSources } := by
  unfold FrameRecord.dropSource
  split <;> rfl

theorem FrameRecord.dropSource_state (p : Nat) (r : FrameRecord) : (r.dropSource p).state = r.state := by
  rw [FrameRecord.dropSource_keeps]

theorem FrameRecord.dropSource_frame (p : Nat) (r : FrameRecord) : (r.dropSource p).frame = r.frame := by
  rw [FrameRecord.dropSource_keeps]

theorem FrameRecord.dropSource_pending (p : Nat) (r : FrameRecord) : (r.dropSource p).pending = r.pending := by
  rw [FrameRecord.dropSource_keeps]

theorem FrameRecord.dropSource_buffer (p : Nat) (r : FrameRecord) : (r.dropSource p).buffer = r.buffer := by
  rw [FrameRecord.dropSource_keeps]

theorem FrameRecord.dropSource_of_open (p : Nat) {r : FrameRecord} (h : r.state = .init ∨ r.state = .filling) :
    r.dropSource p = { r with
      requiredSources := r.requiredSources &&& ~~~(1#64 <<< p)
      closedSources := r.closedSources &&& ~~~(1#64 <<< p) } :=
  if_pos ((FrameState.isOpen_iff _).mpr h)

theorem FrameRecord.dropSource_of_not_open (p : Nat) {r : FrameRecord} (h : r.state ≠ .init) (h' : r.state ≠ .filling) :
    r.dropSource p = r :=
  if_neg (Bool.eq_false_iff.mp ((FrameState.isOpen_eq_false_iff _).mpr ⟨h, h'⟩))

theorem FrameRecord.dropSource_drains_iff (p : Nat) (r : FrameRecord) :
    (r.dropSource p).drains = true ↔ r.state = .filling ∧ r.pending = 0 ∧
      r.closedSources &&& ~~~(1#64 <<< p) = r.requiredSources &&& ~~~(1#64 <<< p) := by
  rw [FrameRecord.drains_iff, FrameRecord.dropSource_state, FrameRecord.dropSource_pending]
  by_cases filling : r.state = .filling
  · rw [FrameRecord.dropSource_of_open p (.inr filling)]
    simp [filling, FrameRecord.isSealed, and_comm]
  · simp [filling]

/-! ### A record that has lost a source and is settled -/

theorem FrameRecord.dropped_settled_keeps (p : Nat) (w : Bool) (r : FrameRecord) :
    (r.dropSource p).settled w = { r with
      requiredSources := ((r.dropSource p).settled w).requiredSources
      closedSources := ((r.dropSource p).settled w).closedSources
      state := ((r.dropSource p).settled w).state
      pins := if (r.dropSource p).drains && w then r.pins + 1 else r.pins } := by
  rw [FrameRecord.settled_eq]
  generalize (r.dropSource p).drains = d
  rw [FrameRecord.dropSource_keeps]

theorem FrameRecord.dropped_settled_of_open (p : Nat) (w : Bool) {r : FrameRecord}
    (h : r.state = .init ∨ r.state = .filling) :
    ((r.dropSource p).settled w).requiredSources = r.requiredSources &&& ~~~(1#64 <<< p) ∧
    ((r.dropSource p).settled w).closedSources = r.closedSources &&& ~~~(1#64 <<< p) ∧
    ((r.dropSource p).settled w).state =
      if r.state = .filling ∧
          ((r.dropSource p).settled w).closedSources = ((r.dropSource p).settled w).requiredSources then
        (if 0 < r.pending then .sealed else .drained)
      else r.state := by
  rw [FrameRecord.settled_eq, FrameRecord.dropSource_of_open p h]
  refine ⟨rfl, rfl, ?_⟩
  simp only [FrameRecord.isSealed, beq_iff_eq]

theorem FrameRecord.dropped_settled_of_not_open (p : Nat) (w : Bool) {r : FrameRecord} (h : r.state ≠ .init)
    (h' : r.state ≠ .filling) : (r.dropSource p).settled w = r := by
  rw [FrameRecord.dropSource_of_not_open p h h', FrameRecord.settled, if_neg fun all => h' all.1]

/-- The station whose open records have lost a source. -/
def Station.losesSource (p : Nat) (s : Station) : Station :=
  s.onFtc fun t => { t with records := t.records.map (FrameRecord.dropSource p) }

theorem Station.losesSource_find (p : Nat) (s : Station) (n : FrameNo) :
    (s.losesSource p).ftc.find n = (s.ftc.find n).map (FrameRecord.dropSource p) :=
  Ftc.find_of_map rfl (FrameRecord.dropSource_frame p) n

theorem Station.losesSource_readyEntry (p : Nat) (s : Station) (n : FrameNo) :
    (s.losesSource p).readyEntry n = s.readyEntry n := by
  have committed : (s.losesSource p).ftc.predecessorCommitted n = s.ftc.predecessorCommitted n := by
    simp only [Ftc.predecessorCommitted, Station.losesSource_find]
    cases s.ftc.find (n - 1) with
    | none => rfl
    | some r => exact congrArg FrameState.hasCommitted (FrameRecord.dropSource_state p r)
  simp only [Station.readyEntry, committed]
  rfl

theorem Station.dropSource_of_master {p : Nat} (low : 32 ≤ p) (high : p ≤ 63) (s : Station) :
    s.dropSource p =
      (s.ftc.records.map (·.frame)).foldl (fun v n => v.applySeal n) (s.losesSource p) :=
  if_pos ⟨low, by omega⟩

theorem dropStands_of_member {r : Receiving} {p : Byte} {s : Station} (hm : r.message = some (.drop p))
    (hs : s.mbr.state = .member) : dropStands r s = s.dropSource p.toNat := by
  simp only [dropStands, hm, hs, if_true]

theorem dropStands_of_none {r : Receiving} {p : Byte} {s : Station} (hm : r.message = some (.drop p))
    (none : s.mbr.state ≠ .member ∨ p.toNat < 32 ∨ 63 < p.toNat) : dropStands r s = s := by
  by_cases hs : s.mbr.state = .member
  · have range : ¬(32 ≤ p.toNat ∧ p.toNat < 64) := fun within => by
      rcases none with other | low | high
      · exact other hs
      · omega
      · omega
    rw [dropStands_of_member hm hs, Station.dropSource, if_neg range]
  · simp only [dropStands, hm, hs, if_false]

/-- Settles O34: the open records lose the source, and their frames are settled in turn. -/
theorem dropRemovesTheSourceFromOpenRecords : Obligations.DropRemovesTheSourceFromOpenRecords := by
  intro h p s ho
  have runs := exec_passedStands (k := .drop) ho rfl
  have touched := touches_dropStands (s.toStation.onTbi Tbi.passedBy) (passedRecord .drop h (.drop p) false .nothing)
  have frame : SameBut [.tbi, .ftc, .fie] s (s.putStation (dropStands (passedRecord .drop h (.drop p) false .nothing)
      (s.toStation.onTbi Tbi.passedBy))) :=
    .of_touches (.step (touches_onTbi _ _) touched (by decide) (by decide))
  by_cases works : s.mbr.state = .member ∧ 32 ≤ p.toNat ∧ p.toNat ≤ 63
  · obtain ⟨member, low, high⟩ := works
    have stands : dropStands (passedRecord .drop h (.drop p) false .nothing) (s.toStation.onTbi Tbi.passedBy) =
        (s.ftc.records.map (·.frame)).foldl (fun v n => v.applySeal n)
          ((s.toStation.onTbi Tbi.passedBy).losesSource p.toNat) :=
      (dropStands_of_member (s := s.toStation.onTbi Tbi.passedBy) rfl member).trans
        (Station.dropSource_of_master low high _)
    obtain ⟨drained, settling⟩ := Settling.fold (s.ftc.records.map (·.frame))
      (Settling.refl ((s.toStation.onTbi Tbi.passedBy).losesSource p.toNat))
    rw [← stands, List.nil_append] at settling
    have find (n : FrameNo) := Station.losesSource_find p.toNat (s.toStation.onTbi Tbi.passedBy) n
    have listed {n : FrameNo} {r : FrameRecord} (hr : s.ftc.find n = some r) : n ∈ s.ftc.records.map (·.frame) :=
      List.mem_map.mpr ⟨r, Ftc.mem_of_find hr, Ftc.frame_of_find hr⟩
    have drains_iff {n : FrameNo} {r : FrameRecord} (hr : s.ftc.find n = some r) :
        n ∈ drained ↔ (r.dropSource p.toNat).drains = true := by
      rw [settling.mem_iff n, Ftc.drainsAt, find n]
      have drops : (s.toStation.onTbi Tbi.passedBy).ftc.find n = some r := hr
      rw [drops]
      exact ⟨fun all => all.2, fun d => ⟨listed hr, d⟩⟩
    refine ⟨_, drained, runs, fun none => ?_, fun _ _ _ => ⟨settling.nodup, settling.sublist, fun n => ?_, ?_, settling.still,
      fun n r hn waits hr => ?_, fun n r hr => ?_⟩, (congrArg Ftc.buffers settling.table :),
      (congrArg Ftc.lastOpened settling.table :), (congrArg Ftc.f0 settling.table :),
      (congrArg Ftc.refresh settling.table :), frame⟩
    · rcases none with other | low' | high'
      · exact absurd member other
      · omega
      · omega
    · constructor
      · intro hn
        obtain ⟨x, hx, drains⟩ := (Ftc.drainsAt_iff _ _).mp ((settling.mem_iff n).mp hn).2
        obtain ⟨r, hr, rfl⟩ := Option.map_eq_some_iff.mp ((find n).symm.trans hx)
        exact ⟨r, hr, (FrameRecord.dropSource_drains_iff _ r).mp drains⟩
      · rintro ⟨r, hr, conditions⟩
        exact (drains_iff hr).mpr ((FrameRecord.dropSource_drains_iff _ r).mpr conditions)
    · refine settling.tbi.trans ?_
      rw [funext (Station.losesSource_readyEntry p.toNat _)]
      rfl
    · have dropped := settling.begun n (r.dropSource p.toNat) hn waits ((find n).trans (congrArg (Option.map _) hr))
      rw [FrameRecord.dropSource_buffer] at dropped
      exact dropped
    · have record := (settling.records n).trans (congrArg (Option.map _) ((find n).trans (congrArg (Option.map _) hr)))
      rw [Option.map_some, Option.map_some, if_pos (listed hr)] at record
      refine ⟨_, record, ?_, FrameRecord.dropped_settled_of_open _ _, fun i f => ?_⟩
      · have pins : (if n ∈ drained ∧ s.toStation.copyWaits n = true then r.pins + 1 else r.pins) =
            if (r.dropSource p.toNat).drains && s.toStation.copyWaits n then r.pins + 1 else r.pins := by
          simp only [drains_iff hr, Bool.and_eq_true]
        rw [pins]
        exact FrameRecord.dropped_settled_keeps _ _ _
      · rw [FrameRecord.dropped_settled_of_not_open _ _ i f]
        exact ⟨rfl, rfl, rfl⟩
  · have idle : s.mbr.state ≠ .member ∨ p.toNat < 32 ∨ 63 < p.toNat := by
      simpa only [Classical.not_and_iff_not_or_not, Nat.not_le] using works
    rw [dropStands_of_none (s := s.toStation.onTbi Tbi.passedBy) rfl idle] at frame
    have stands := dropStands_of_none (s := s.toStation.onTbi Tbi.passedBy)
      (r := passedRecord .drop h (.drop p) false .nothing) rfl idle
    refine ⟨s.putStation (s.toStation.onTbi Tbi.passedBy), [],
      runs.trans (congrArg (fun u => Host.Outcome.next (s.putStation u)) stands),
      fun _ => ⟨rfl, .of_touches (touches_onTbi _ _)⟩, fun member low high => absurd ⟨member, low, high⟩ works, rfl, rfl,
      rfl, rfl, frame⟩

end Sys2Proof.Machine
end

section
/-! PROOF. Clipping: the rectangle and the pixels that fall on the tile (R97). -/

namespace Sys2Proof.Machine

/-! ## The rows of a pixel list -/

section
variable {stride w : Nat} {ps : List Pixel}

theorem take_drop_length {i : Nat} (fits : i + w ≤ ps.length) : ((ps.drop i).take w).length = w := by
  rw [List.length_take, List.length_drop]
  omega

theorem clipRows_length {n : Nat} (i : Nat) (fits : ∀ j < n, i + j * stride + w ≤ ps.length) :
    (clipRows stride w i n ps).length = n * w := by
  induction n generalizing i with
  | zero => simp [clipRows]
  | succ n ih =>
    have first : i + w ≤ ps.length := by simpa using fits 0 (by omega)
    have rest (j : Nat) (hj : j < n) : i + stride + j * stride + w ≤ ps.length := by
      have below := fits (j + 1) (by omega)
      rw [Nat.succ_mul] at below
      omega
    rw [clipRows, List.length_append, take_drop_length first, ih _ rest, Nat.succ_mul]
    omega

theorem clipRows_getElem? {n j k : Nat} (i : Nat) (fits : ∀ j < n, i + j * stride + w ≤ ps.length) (hj : j < n)
    (hk : k < w) : (clipRows stride w i n ps)[j * w + k]? = ps[i + j * stride + k]? := by
  induction n generalizing i j with
  | zero => omega
  | succ n ih =>
    have first : i + w ≤ ps.length := by simpa using fits 0 (by omega)
    have rest (j : Nat) (hj : j < n) : i + stride + j * stride + w ≤ ps.length := by
      have below := fits (j + 1) (by omega)
      rw [Nat.succ_mul] at below
      omega
    rw [clipRows]
    cases j with
    | zero =>
      rw [List.getElem?_append_left (by rw [take_drop_length first]; omega), List.getElem?_take, if_pos (by omega),
        List.getElem?_drop]
      simp
    | succ j =>
      have place : (j + 1) * w + k - w = j * w + k := by rw [Nat.succ_mul]; omega
      rw [List.getElem?_append_right (by rw [take_drop_length first, Nat.succ_mul]; omega), take_drop_length first, place,
        ih _ rest (by omega), Nat.succ_mul]
      congr 1
      omega

end

/-! ## The rectangle -/

/-- A clipped rectangle is the overlap of the write's with the tile's, and there is one. -/
theorem Station.clip_eq_some {s : Station} {x y width height : BitVec 16} {c : Rect}
    (h : s.clip x y width height = some c) :
    max x.toNat s.originX < min (x.toNat + width.toNat) (s.originX + s.width) ∧
    max y.toNat s.originY < min (y.toNat + height.toNat) (s.originY + s.height) ∧
    s.originX + c.left = max x.toNat s.originX ∧
    s.originY + c.top = max y.toNat s.originY ∧
    max x.toNat s.originX + c.width = min (x.toNat + width.toNat) (s.originX + s.width) ∧
    max y.toNat s.originY + c.height = min (y.toNat + height.toNat) (s.originY + s.height) := by
  unfold Station.clip at h
  dsimp only at h
  split at h
  · next overlap =>
    cases h
    dsimp only
    refine ⟨overlap.1, overlap.2, ?_, ?_, ?_, ?_⟩ <;> omega
  · simp at h

theorem Station.clip_eq_none_iff (s : Station) (x y width height : BitVec 16) :
    s.clip x y width height = none ↔
      ¬(max x.toNat s.originX < min (x.toNat + width.toNat) (s.originX + s.width) ∧
        max y.toNat s.originY < min (y.toNat + height.toNat) (s.originY + s.height)) := by
  unfold Station.clip
  dsimp only
  split
  · next overlap => exact iff_of_false nofun (not_not_intro overlap)
  · next apart => exact iff_of_true rfl apart

/-- Every row of the clipped rectangle lies in the write's pixel list. -/
theorem Station.clip_rows_fit {s : Station} {w : WriteHead} {c : Rect} {ps : List Pixel}
    (h : s.clip w.x w.y w.width w.height = some c) (length : ps.length = w.width.toNat * w.height.toNat) :
    ∀ j < c.height, (s.originY + c.top - w.y.toNat) * w.width.toNat + (s.originX + c.left - w.x.toNat) +
      j * w.width.toNat + c.width ≤ ps.length := by
  intro j hj
  obtain ⟨hx, hy, left, top, right, bottom⟩ := Station.clip_eq_some h
  have column : s.originX + c.left - w.x.toNat + c.width ≤ w.width.toNat := by omega
  have row : s.originY + c.top - w.y.toNat + j + 1 ≤ w.height.toNat := by omega
  calc (s.originY + c.top - w.y.toNat) * w.width.toNat + (s.originX + c.left - w.x.toNat) + j * w.width.toNat + c.width
    _ ≤ (s.originY + c.top - w.y.toNat) * w.width.toNat + j * w.width.toNat + w.width.toNat := by omega
    _ = w.width.toNat * (s.originY + c.top - w.y.toNat + j + 1) := by
        rw [Nat.mul_add, Nat.mul_add, Nat.mul_one, Nat.mul_comm, Nat.mul_comm j]
    _ ≤ ps.length := by
      rw [length]
      exact Nat.mul_le_mul_left _ row

theorem Station.clipPixels_length {s : Station} {w : WriteHead} {c : Rect} {ps : List Pixel}
    (h : s.clip w.x w.y w.width w.height = some c) (length : ps.length = w.width.toNat * w.height.toNat) :
    (s.clipPixels w c ps).length = c.width * c.height :=
  (clipRows_length _ (Station.clip_rows_fit h length)).trans (Nat.mul_comm _ _)

/-- Settles O38: the overlap of two intervals in each direction, and the rows of the pixel list. -/
theorem clippingKeepsThePositionsOnTheTile : Obligations.ClippingKeepsThePositionsOnTheTile := by
  intro s w ps
  refine ⟨?_, fun c h => ⟨fun x y => ?_, fun length => ⟨Station.clipPixels_length h length, fun i j hi hj => ?_⟩⟩⟩
  · rw [Station.clip_eq_none_iff]
    refine not_congr ⟨?_, ?_⟩
    · rintro ⟨hx, hy⟩
      exact ⟨max w.x.toNat s.originX, max w.y.toNat s.originY, by omega⟩
    · rintro ⟨x, y, bounds⟩
      omega
  · obtain ⟨hx, hy, left, top, right, bottom⟩ := Station.clip_eq_some h
    omega
  · refine (clipRows_getElem? _ (Station.clip_rows_fit h length) hj hi).trans (congrArg (ps[·]?) ?_)
    obtain ⟨hx, hy, left, top, right, bottom⟩ := Station.clip_eq_some h
    have row : s.originY + c.top + j - w.y.toNat = s.originY + c.top - w.y.toNat + j := by omega
    have column : s.originX + c.left + i - w.x.toNat = s.originX + c.left - w.x.toNat + i := by omega
    rw [row, column, Nat.add_mul]
    omega

end Sys2Proof.Machine
end

section
/-! PROOF. FILL and RUN: the seven conditions, and the record that a standing write becomes (R93 to R101). -/

namespace Sys2Proof

/-- A RUN is heard with as many pixels as its count says. -/
theorem readMessage_run_length {h : Heard} {w : WriteHead} {count : BitVec 16} {ps : List Pixel}
    (hm : readMessage .run h = some (.run w count ps)) : ps.length = count.toNat := by
  unfold readMessage at hm
  split at hm
  · have body : readRun h.body = some (.run w count ps) := hm
    unfold readRun at body
    repeat' split at body
    all_goals simp_all
  · simp at hm

namespace Machine

/-! ## The fields (R93) -/

theorem RasterOp.ofCode_isSome_iff (c : BitVec 4) : (RasterOp.ofCode c).isSome = true ↔ c.toNat ≤ 3 := by
  unfold RasterOp.ofCode
  repeat' split
  · simp [*]
  · simp [*]
  · simp [*]
  · simp [*]
  · simp only [Option.isSome_none, Bool.false_eq_true, false_iff]
    bv_omega

theorem RasterOp.ofCode_code {c : BitVec 4} (h : c.toNat ≤ 3) :
    ((RasterOp.ofCode c).getD .replace).code = c.toNat := by
  have cases_ : c = 0 ∨ c = 1 ∨ c = 2 ∨ c = 3 := by bv_omega
  rcases cases_ with rfl | rfl | rfl | rfl <;> decide

theorem writeValid_iff (w : WriteHead) (count : Option Nat) :
    writeValid w count = true ↔
      w.inRange ∧ ∀ n, count = some n → n = w.width.toNat * w.height.toNat ∧ n ≤ 256 := by
  have counted : (match count with
      | none => true
      | some n => decide (n = w.width.toNat * w.height.toNat ∧ n ≤ 256)) = true ↔
      ∀ n, count = some n → n = w.width.toNat * w.height.toNat ∧ n ≤ 256 := by
    cases count <;> simp
  unfold writeValid WriteHead.inRange
  rw [Bool.and_eq_true, Bool.and_eq_true, Bool.and_eq_true, RasterOp.ofCode_isSome_iff, rectValid, decide_eq_true_iff,
    bne_iff_ne]
  refine Iff.trans (and_congr Iff.rfl counted) ?_
  simp only [and_assoc]

theorem Station.writeLimits_eq (s : Station) (n : FrameNo) : s.writeLimits n = s.limits n := by
  have opened : (fun r : FrameRecord => r.state == .init || r.state == .filling) = fun r => r.state.isOpen := by
    funext r
    cases r.state <;> rfl
  unfold Station.writeLimits Station.limits Ftc.oldest
  rw [opened]
  cases s.ftc.records.find? fun r => r.state.isOpen with
  | none => simp
  | some r => simp

/-! ## The seven conditions (R94) -/

section
variable {p : Nat} {w : WriteHead} {count : Option Nat} {paint : Rect → Paint} {s : Station} {r : FrameRecord}

theorem decideWrite_of_invalid (bad : writeValid w count = false) :
    decideWrite p w count paint s = .refuse .badField := if_pos bad

theorem decideWrite_of_not_held (good : writeValid w count = true) (hr : s.ftc.find w.frame = none) :
    decideWrite p w count paint s = if s.ftc.f0Passes w.frame then .pass .nothing else .refuse .frameState := by
  simp only [decideWrite, good, hr, Bool.true_eq_false, if_false]

/-- The conditions on a held frame: its state, the sender, the tile, then the room. -/
theorem decideWrite_of_held (good : writeValid w count = true) (hr : s.ftc.find w.frame = some r) :
    decideWrite p w count paint s =
      if r.state.isOpen = false then .refuse .frameState
      else if r.requiredSources.getLsbD p = false then .refuse .sourceState
      else if r.closedSources.getLsbD p = true then .refuse .sourceState
      else match s.clip w.x w.y w.width w.height with
        | none => .pass .nothing
        | some c =>
          if (s.limits w.frame).1 < s.inq.length + 1 then .refuse .queueFull
          else if (s.limits w.frame).2 < storedPixels s.inq + (paint c).stored then .refuse .pixelsFull
          else .pass (.apply
            { frame := w.frame, paint := paint c, op := (RasterOp.ofCode w.op).getD .replace
              mask := w.mask, rect := c, row := 0, col := 0 }) := by
  simp only [decideWrite, good, hr, Bool.true_eq_false, if_false] <;> rfl

theorem decideWrite_of_not_open (good : writeValid w count = true) (hr : s.ftc.find w.frame = some r)
    (i : r.state ≠ .init) (f : r.state ≠ .filling) : decideWrite p w count paint s = .refuse .frameState :=
  (decideWrite_of_held good hr).trans (if_pos ((FrameState.isOpen_eq_false_iff _).mpr ⟨i, f⟩))

section
variable (good : writeValid w count = true) (hr : s.ftc.find w.frame = some r)
  (opened : r.state = .init ∨ r.state = .filling)
include good hr opened

theorem decideWrite_of_not_source (source : r.requiredSources.getLsbD p = false ∨ r.closedSources.getLsbD p = true) :
    decideWrite p w count paint s = .refuse .sourceState := by
  have open_ : r.state.isOpen = true := (FrameState.isOpen_iff _).mpr opened
  rw [decideWrite_of_held good hr, open_]
  rcases source with unrequired | finished
  · simp [unrequired]
  · simp [finished]

variable (required : r.requiredSources.getLsbD p = true) (fresh : r.closedSources.getLsbD p = false)
include required fresh

theorem decideWrite_of_missed (missed : s.clip w.x w.y w.width w.height = none) :
    decideWrite p w count paint s = .pass .nothing := by
  have open_ : r.state.isOpen = true := (FrameState.isOpen_iff _).mpr opened
  simp only [decideWrite_of_held good hr, open_, required, fresh, missed, Bool.true_eq_false, Bool.false_eq_true,
    if_false]

theorem decideWrite_of_clipped {c : Rect} (clipped : s.clip w.x w.y w.width w.height = some c) :
    decideWrite p w count paint s =
      if (s.limits w.frame).1 < s.inq.length + 1 then .refuse .queueFull
      else if (s.limits w.frame).2 < storedPixels s.inq + (paint c).stored then .refuse .pixelsFull
      else .pass (.apply
        { frame := w.frame, paint := paint c, op := (RasterOp.ofCode w.op).getD .replace
          mask := w.mask, rect := c, row := 0, col := 0 }) := by
  have open_ : r.state.isOpen = true := (FrameState.isOpen_iff _).mpr opened
  simp only [decideWrite_of_held good hr, open_, required, fresh, clipped, Bool.true_eq_false, Bool.false_eq_true,
    if_false]

end

end

/-! ## A FILL or a RUN as one write -/

/-- A heard FILL or RUN: its head, its declared count, and what a clipped rectangle of it stores. -/
structure Writes (s : Station) (k : Kind) (m : Message) (w : WriteHead) (count : Option Nat)
    (paint : Rect → Paint) : Prop where
  kind : k = .fill ∨ k = .run
  decides : ∀ p, decideOf k p m s = decideWrite p w count paint s

theorem Writes.fill (s : Station) (w : WriteHead) (colour : Pixel) :
    Writes s .fill (.fill w colour) w none fun _ => .fill colour := ⟨.inl rfl, fun _ => rfl⟩

theorem Writes.run (s : Station) (w : WriteHead) (n : BitVec 16) (ps : List Pixel) :
    Writes s .run (.run w n ps) w (some n.toNat) fun c => .run (s.clipPixels w c ps) := ⟨.inr rfl, fun _ => rfl⟩

theorem writeValid_fill_iff (w : WriteHead) : writeValid w none = true ↔ w.inRange := by
  simp [writeValid_iff]

theorem writeValid_run_iff (w : WriteHead) (n : BitVec 16) :
    writeValid w (some n.toNat) = true ↔ w.inRange ∧ w.countInRange n := by
  simp [writeValid_iff, WriteHead.countInRange]

/-- The pixels that a clipped RUN stores. -/
theorem stored_run {s : Station} {h : Heard} {w : WriteHead} {n : BitVec 16} {ps : List Pixel} {c : Rect}
    (hm : readMessage .run h = some (.run w n ps)) (good : w.countInRange n)
    (clipped : s.clip w.x w.y w.width w.height = some c) :
    Paint.stored (.run (s.clipPixels w c ps)) = c.width * c.height :=
  Station.clipPixels_length clipped ((readMessage_run_length hm).trans good.1)

/-- Settles O36: the conditions of a write in order, for a FILL and a RUN alike. -/
theorem writeIsDecidedOnSevenConditions : Obligations.WriteIsDecidedOnSevenConditions := by
  intro k h m w need paint valid s ho hs command
  obtain ⟨count, paint', writes, good_iff, same, stored⟩ : ∃ (count : Option Nat) (paint' : Rect → Paint),
      Writes s.toStation k m w count paint' ∧ (writeValid w count = true ↔ valid) ∧ (∀ c, paint' c = paint c) ∧
      (valid → ∀ c, s.clip w.x w.y w.width w.height = some c → (paint c).stored = need c) := by
    rcases command with ⟨rfl, valid_iff, needs, colour, rfl, paints⟩ | ⟨rfl, needs, n, ps, rfl, valid_iff, paints⟩
    · exact ⟨_, _, Writes.fill _ w colour, (writeValid_fill_iff w).trans valid_iff.symm, fun c => (paints c).symm,
        fun _ c _ => by rw [paints c, needs c]; rfl⟩
    · exact ⟨_, _, Writes.run _ w n ps, (writeValid_run_iff w n).trans valid_iff.symm, fun c => (paints c).symm,
        fun v c clipped => by rw [paints c, needs c]; exact stored_run ho.2.2 (valid_iff.mp v).2 clipped⟩
  have refuse {reason : Counter}
      (refused : decideWrite (wordParty h.word) w count paint' s.toStation = .refuse reason) :=
    refuses_of_decide ho hs ((writes.decides _).trans refused)
  have pass {a : SetAside} (passed : decideWrite (wordParty h.word) w count paint' s.toStation = .pass a) :=
    passes_of_decide ho hs ((writes.decides _).trans passed)
  refine ⟨_, exec_checkCode ho.1, fun bad => refuse (decideWrite_of_invalid (Bool.eq_false_iff.mpr (bad ∘ good_iff.mp))),
    fun v hr => ?_, fun v r hr => ?_⟩
  · have decided := decideWrite_of_not_held (p := wordParty h.word) (paint := paint') (good_iff.mpr v) hr
    refine ⟨fun f f0 n1 n2 => refuse (decided.trans (if_neg ?_)), fun f0 => pass (decided.trans (if_pos ?_))⟩
    · simp [Ftc.f0Passes_eq_false f0 n1 n2]
    · exact (Ftc.f0Passes_iff _ _).mpr f0
  · have good := good_iff.mpr v
    refine ⟨fun i f => refuse (decideWrite_of_not_open good hr i f), fun opened =>
      ⟨fun source => refuse (decideWrite_of_not_source good hr opened source), fun required fresh =>
        ⟨fun missed => pass (decideWrite_of_missed good hr opened required fresh missed),
          fun c entries pixels clipped limits => ?_⟩⟩⟩
    have decided := decideWrite_of_clipped (paint := paint') good hr opened required fresh clipped
    rw [Station.writeLimits_eq] at limits
    rw [← limits, same c, stored v c clipped] at decided
    refine ⟨fun full => refuse (decided.trans (if_pos full)), fun room full => refuse ?_, fun room space => ?_⟩
    · exact decided.trans ((if_neg (by simpa using room)).trans (if_pos full))
    · exact ⟨_, RasterOp.ofCode_code ((writeValid_iff w count).mp good).1.2.2.2.2.1,
        pass (decided.trans ((if_neg (by simpa using room)).trans (if_neg (by simpa using space))))⟩

end Machine

end Sys2Proof
end

section
/-! PROOF. A standing write joins the apply queue; the verdict that comes alone (R7, R65, R101). -/

namespace Sys2Proof.Machine

/-! ## The verdict that comes alone (R7, R8) -/

/-- The verdict passes for a message in hand with something set aside: what is left is what it does. -/
theorem exec_verdictStands {k : Kind} {a : SetAside} {s : State} (hs : s.hasSetAside k a) :
    ∃ r : Receiving, r.aside = a ∧ r.own = false ∧
      exec (commandOf k (.verdict .clear)) s = .next (s.putStation
        (standsOf k r (s.toStation.onTbi fun t => { t with receiving := none }))) := by
  obtain ⟨live, r, receiving, code, own, passed, heard, aside⟩ := hs
  refine ⟨r, aside, own, ?_⟩
  have verdict := Station.verdict_passed (standsOf k) .clear receiving passed heard
  rw [code, slotsClear_clear, own] at verdict
  rw [exec_commandOf, onLive_live live]
  exact congrArg (fun u => Host.Outcome.next (s.putStation u)) verdict

/-! ## A standing write (R101) -/

section
variable {s : Station} {r : Receiving} {k : Kind}

theorem standsOf_write_of_nothing (hk : k = .fill ∨ k = .run) (h : r.aside = .nothing) : standsOf k r s = s := by
  rcases hk with rfl | rfl
  · simp only [standsOf, fillStands, h]
  · simp only [standsOf, runStands, h]

theorem standsOf_write_of_apply {a : ApplyRecord} (hk : k = .fill ∨ k = .run) (h : r.aside = .apply a) :
    standsOf k r s = s.keepWrite a := by
  rcases hk with rfl | rfl
  · simp only [standsOf, fillStands, h]
  · simp only [standsOf, runStands, h]

end

/-- Settles O37: nothing set aside, a record set aside, and the verdict alone. -/
theorem standingWriteJoinsTheApplyQueue : Obligations.StandingWriteJoinsTheApplyQueue := by
  refine ⟨fun k h m w s ho command idle => ?_, fun k h m w r c paint entries pixels s ho hs command hr opened required
    fresh clipped limits room space => ?_, fun k a s hk hs => ?_⟩
  · obtain ⟨count, paint, writes, good⟩ : ∃ (count : Option Nat) (paint : Rect → Paint),
        Writes s.toStation k m w count paint ∧ writeValid w count = true := by
      rcases command with ⟨rfl, ⟨colour, rfl⟩, valid⟩ | ⟨rfl, n, ps, rfl, valid⟩
      · exact ⟨_, _, Writes.fill _ w colour, (writeValid_fill_iff w).mpr valid⟩
      · exact ⟨_, _, Writes.run _ w n ps, (writeValid_run_iff w n).mpr valid⟩
    by_cases member : s.mbr.state = .member
    · have pass : decideOf k (wordParty h.word) m s.toStation = .pass .nothing := by
        rw [writes.decides]
        rcases idle with other | ⟨missing, f0⟩ | ⟨r, hr, opened, required, fresh, missed⟩
        · exact absurd member other
        · exact (decideWrite_of_not_held good missing).trans (if_pos ((Ftc.f0Passes_iff _ _).mpr f0))
        · exact decideWrite_of_missed good hr opened required fresh missed
      refine ⟨_, exec_memberStands ho member pass, ?_⟩
      rw [standsOf_write_of_nothing writes.kind rfl]
      exact ⟨rfl, .of_touches (touches_onTbi _ _)⟩
    · refine ⟨_, exec_nonMemberStands ho member, ?_⟩
      rw [standsOf_write_of_nothing writes.kind rfl]
      exact ⟨rfl, .of_touches (touches_onTbi _ _)⟩
  · obtain ⟨count, paints, writes, good, same⟩ : ∃ (count : Option Nat) (paints : Rect → Paint),
        Writes s.toStation k m w count paints ∧ writeValid w count = true ∧ paints c = paint := by
      rcases command with ⟨rfl, colour, rfl, rfl, valid⟩ | ⟨rfl, n, ps, rfl, rfl, valid, counted⟩
      · exact ⟨_, _, Writes.fill _ w colour, (writeValid_fill_iff w).mpr valid, rfl⟩
      · exact ⟨_, _, Writes.run _ w n ps, (writeValid_run_iff w n).mpr ⟨valid, counted⟩, rfl⟩
    have decided := decideWrite_of_clipped (paint := paints) good hr opened required fresh clipped
    rw [Station.writeLimits_eq] at limits
    rw [← limits, same, if_neg (by simpa using room), if_neg (by simpa using space)] at decided
    refine ⟨_, _, exec_memberStands ho hs ((writes.decides _).trans decided), ?_,
      RasterOp.ofCode_code ((writeValid_iff w count).mp good).1.2.2.2.2.1, ?_⟩
    · rw [standsOf_write_of_apply writes.kind rfl]
      rfl
    · rw [standsOf_write_of_apply writes.kind rfl]
      exact ⟨rfl, Ftc.onRecord_eq _ _ _, .of_touches (.step (touches_onTbi _ _) (touches_keepWrite _ _) (by decide)
        (by decide))⟩
  · obtain ⟨r, aside, -, runs⟩ := exec_verdictStands hs
    rw [standsOf_write_of_apply hk aside] at runs
    exact ⟨_, runs, rfl, rfl, Ftc.onRecord_eq _ _ _,
      .of_touches (.step (touches_onTbi _ _) (touches_keepWrite _ _) (by decide) (by decide))⟩

end Sys2Proof.Machine
end

section
/-! PROOF. The arbiter: when a request stands, and the burst formed at an idle arbiter (R104, R105, R118, R119,
R128, R130, R132, R137). -/

namespace Sys2Proof.Machine

section
variable {s : Station}

/-! ## The five conditions -/

theorem Station.requests_iff (s : Station) (r : Requester) : s.requests r = true ↔ s.mar.inFlight ≠ some r ∧
    (match r with
      | .scan => s.scn.front.isSome && decide (s.scn.fifo.length < 8) && s.scn.fetch.isSome
      | .mref => decide (1 ≤ s.mar.debt)
      | .apply => s.oldestEligible.isSome
      | .init => match s.fie with
        | j :: _ => j.phase == .running
        | [] => false
      | .read => s.servedRead.isSome && decide (s.tbi.replies < 4)) = true :=
  Bool.and_eq_true_iff.trans (and_congr bne_iff_ne Iff.rfl)

theorem FrameState.isApplied_iff (st : FrameState) : st.isApplied = true ↔ st = .filling ∨ st = .sealed := by
  cases st <;> simp [FrameState.isApplied]

theorem Station.eligible_iff (s : Station) (k : ApplyRecord) : s.eligible k = true ↔
    ∃ f, s.ftc.find k.frame = some f ∧ (f.state = .filling ∨ f.state = .sealed) := by
  unfold Station.eligible
  cases s.ftc.find k.frame with
  | none => simp
  | some f => simp [FrameState.isApplied_iff]

theorem Station.oldestEligible_isSome_iff (s : Station) : s.oldestEligible.isSome = true ↔
    ∃ k ∈ s.inq, ∃ f, s.ftc.find k.frame = some f ∧ (f.state = .filling ∨ f.state = .sealed) := by
  simp only [Station.oldestEligible, List.findIdx?_isSome, List.any_eq_true, Station.eligible_iff]

theorem ReadRecord.readOut_eq (k : ReadRecord) : (!k.readOut) = decide (k.row < k.rect.height) := by
  rw [ReadRecord.readOut, ← decide_not, decide_eq_decide, Nat.not_le]

theorem Station.servedRead_eq (s : Station) :
    s.servedRead = s.rbe.find? fun k => decide (k.row < k.rect.height) := by
  simp only [Station.servedRead, ReadRecord.readOut_eq]

/-- Settles O40, requester by requester. -/
theorem requestsStandOnTheirConditions : Obligations.RequestsStandOnTheirConditions := by
  intro s
  refine ⟨?_, ?_, ?_, ?_, ?_⟩ <;> rw [Station.requests_iff]
  · simp [and_assoc]
  · simp
  · exact and_congr Iff.rfl s.oldestEligible_isSome_iff
  · refine and_congr Iff.rfl ?_
    cases s.fie with
    | nil => simp
    | cons j js => simp
  · refine and_congr Iff.rfl ?_
    simp only [Station.servedRead_eq, Bool.and_eq_true, List.find?_isSome, decide_eq_true_iff]
    rfl

/-! ## The burst formed at a grant (R137) -/

theorem Station.formBurst_scan {b : Buf} {p : SegPos} (front : s.scn.front = some b) (fetch : s.scn.fetch = some p) :
    s.formBurst .scan = some (.scan b p.line p.segment) := by
  simp only [Station.formBurst, front, fetch]

/-- The APPLY burst of the oldest eligible record. -/
theorem Station.formBurst_apply {i : Nat} {k : ApplyRecord} {f : FrameRecord} (oldest : s.oldestEligible = some i)
    (hk : s.inq[i]? = some k) (hf : s.ftc.find k.frame = some f) :
    s.formBurst .apply = some (.apply ⟨f.buffer, k.rect.top + k.row, k.rect.left + k.col,
      min 64 (k.rect.width - k.col)⟩ k.op k.mask (k.values (min 64 (k.rect.width - k.col))) i) := by
  simp only [Station.formBurst, oldest, hk, hf, burstCount]

theorem Station.formBurst_initFill {j : InitJob} {js : List InitJob} {c : Pixel} (list : s.fie = j :: js)
    (work : j.work = .fill c) :
    s.formBurst .init = some (.initFill ⟨j.target, j.row, j.col, min 256 (s.width - j.col)⟩ c) := by
  simp only [Station.formBurst, list, work, burstCount]

theorem Station.formBurst_initCopy {j : InitJob} {js : List InitJob} {b : Buf} (list : s.fie = j :: js)
    (work : j.work = .copy) (source : j.source = some b) :
    s.formBurst .init = some (.initCopy b ⟨j.target, j.row, j.col, min 256 (s.width - j.col)⟩) := by
  simp only [Station.formBurst, list, work, source, burstCount]

theorem Station.formBurst_read {k : ReadRecord} (served : s.servedRead = some k) :
    s.formBurst .read = some (.read k.span k.requester k.tag) := by
  simp only [Station.formBurst, served]

theorem Station.grant_of_burst {r : Requester} {w : BurstWork} (h : s.formBurst r = some w) :
    s.grant r = (s.onMar fun a => { a with history := moveLast r a.history, burst := some ⟨w, false⟩ }).onFtc
      (Ftc.markAll w.targets) := by
  simp only [Station.grant, h]

/-- The burst a requester forms, in terms of its own state (R105, R119, R120, R151, R165). -/
def Station.FormsFrom (s : Station) (r : Requester) (w : BurstWork) : Prop :=
  match r with
  | .scan => ∃ b p, s.scn.front = some b ∧ s.scn.fetch = some p ∧
    w = .scan b p.line p.segment
  | .mref => w = .mref
  | .apply => ∃ i k f vs, s.inq[i]? = some k ∧ s.ftc.find k.frame = some f ∧
    (f.state = .filling ∨ f.state = .sealed) ∧
    (∀ j d g, j < i → s.inq[j]? = some d → s.ftc.find d.frame = some g →
      g.state ≠ .filling ∧ g.state ≠ .sealed) ∧
    w = .apply ⟨f.buffer, k.rect.top + k.row, k.rect.left + k.col,
      min 64 (k.rect.width - k.col)⟩ k.op k.mask vs i ∧
    vs.length ≤ min 64 (k.rect.width - k.col) ∧
    ∀ l < min 64 (k.rect.width - k.col),
      (∀ c, k.paint = .fill c → vs[l]? = some c) ∧
      ∀ ps, k.paint = .run ps → vs[l]? = ps[k.row * k.rect.width + k.col + l]?
  | .init => ∃ j js, s.fie = j :: js ∧
    ((∃ c, j.work = .fill c ∧
        w = .initFill ⟨j.target, j.row, j.col, min 256 (s.width - j.col)⟩ c) ∨
      (∃ b, j.work = .copy ∧ j.source = some b ∧
        w = .initCopy b ⟨j.target, j.row, j.col, min 256 (s.width - j.col)⟩))
  | .read => ∃ k, (s.rbe.find? fun x => decide (x.row < x.rect.height)) = some k ∧
    w = .read ⟨k.buffer, k.rect.top + k.row, k.rect.left + k.col,
      min 64 (k.rect.width - k.col)⟩ k.requester k.tag

/-- A standing request finds the burst it forms. -/
theorem Station.formBurst_of_requests {r : Requester} (stands : s.requests r = true) (fits : s.InitListFits) :
    ∃ w, s.formBurst r = some w ∧ s.FormsFrom r w := by
  have condition := (s.requests_iff r).mp stands
  cases r with
  | scan =>
    simp only [Bool.and_eq_true, Option.isSome_iff_exists] at condition
    obtain ⟨-, ⟨⟨b, front⟩, -⟩, p, fetch⟩ := condition
    exact ⟨_, Station.formBurst_scan front fetch, b, p, front, fetch, rfl⟩
  | mref => exact ⟨_, rfl, rfl⟩
  | apply =>
    obtain ⟨i, oldest⟩ := Option.isSome_iff_exists.mp condition.2
    obtain ⟨inside, eligible, earlier⟩ := List.findIdx?_eq_some_iff_getElem.mp (oldest : s.inq.findIdx? s.eligible = some i)
    obtain ⟨f, hf, applied⟩ := (s.eligible_iff _).mp eligible
    have hk : s.inq[i]? = some s.inq[i] := List.getElem?_eq_getElem inside
    refine ⟨_, Station.formBurst_apply oldest hk hf, i, _, f, _, hk, hf, applied, fun j d g hj hd hg => ?_, rfl,
      ApplyRecord.values_length _ _, fun l hl => ⟨fun c paint => ApplyRecord.values_fill paint hl,
        fun ps paint => ApplyRecord.values_run paint hl⟩⟩
    have unfit := earlier j hj
    obtain ⟨hlt, rfl⟩ := List.getElem?_eq_some_iff.mp hd
    rw [s.eligible_iff] at unfit
    refine ⟨fun filling => unfit ⟨g, hg, .inl filling⟩, fun sealed_ => unfit ⟨g, hg, .inr sealed_⟩⟩
  | init =>
    cases list : s.fie with
    | nil => simp [list] at condition
    | cons j js =>
      simp only [list, beq_iff_eq] at condition
      cases work : j.work with
      | fill c => exact ⟨_, Station.formBurst_initFill list work, j, js, list, .inl ⟨c, work, rfl⟩⟩
      | copy =>
        obtain ⟨b, source⟩ := Option.isSome_iff_exists.mp (fits.2 j (by simp [list]) work condition.2)
        exact ⟨_, Station.formBurst_initCopy list work source, j, js, list, .inr ⟨b, work, source, rfl⟩⟩
  | read =>
    simp only [Bool.and_eq_true, Option.isSome_iff_exists] at condition
    obtain ⟨-, ⟨k, served⟩, -⟩ := condition
    exact ⟨_, Station.formBurst_read served, k, s.servedRead_eq ▸ served, rfl⟩

end

/-! ## A request at an idle arbiter (R135) -/

theorem exec_requestAtIdleArbiter {s : State} (r : Requester) (live : s.resetAsserted = false) :
    exec (.requestAtIdleArbiter r) s = .next (s.putStation (s.toStation.requestAtIdle r)) :=
  onLive_live live

theorem Station.requestAtIdle_of_idle {s : Station} {r : Requester} (idle : s.mar.burst = none)
    (stands : s.requests r = true) : s.requestAtIdle r = s.grant r :=
  if_pos ⟨by rw [idle]; rfl, stands⟩

/-- Settles O42: the burst is the one the requester's state forms. -/
theorem requestAtIdleArbiterIsGranted : Obligations.RequestAtIdleArbiterIsGranted := by
  intro r s live fits
  refine ⟨fun refused => ?_, fun idle stands => ?_⟩
  · have none : ¬(s.mar.burst.isNone = true ∧ s.requests r = true) := fun ⟨idle, stands⟩ => by
      rcases refused with busy | unfit
      · exact busy (Option.isNone_iff_eq_none.mp idle)
      · exact Bool.false_ne_true (unfit.symm.trans stands)
    rw [exec_requestAtIdleArbiter r live, Station.requestAtIdle, if_neg none]
    rfl
  · obtain ⟨w, formed, from_⟩ := Station.formBurst_of_requests stands fits
    have granted := (Station.requestAtIdle_of_idle idle stands).trans (Station.grant_of_burst formed)
    rw [exec_requestAtIdleArbiter r live, granted]
    refine ⟨_, w, rfl, rfl, ?_, Ftc.markAll_get _ _, Ftc.markAll_eq _ _, .of_touches
      (.step (touches_onMar _ _) (touches_onFtc _ _) (by decide) (by decide))⟩
    cases r <;> exact from_

end Sys2Proof.Machine
end

section
/-! PROOF. Completions: what every one of them does, the refresh debt, and the SCAN and READ bursts (R108, R131,
R138, R152, R166). -/

namespace Sys2Proof.Machine

/-! ## The memory as a burst reads it -/

theorem Memory.readRun_length (m : Memory) (b : Buf) (line col n : Nat) : (Memory.readRun m b line col n).length = n := by
  induction n generalizing col with
  | zero => rfl
  | succ n ih => rw [Memory.readRun, List.length_cons, ih]

theorem Memory.readRun_getElem? (m : Memory) (b : Buf) (line col : Nat) {n i : Nat} (h : i < n) :
    (Memory.readRun m b line col n)[i]? = some (Memory.readPixel m b line (col + i)) := by
  induction n generalizing col i with
  | zero => omega
  | succ n ih =>
    cases i with
    | zero => rfl
    | succ i =>
      rw [Memory.readRun, List.getElem?_cons_succ, ih _ (by omega)]
      congr 2
      omega

section
variable {s : Station}

/-! ## The end of a burst and the next grant -/

theorem touches_requesterDone (b : Burst) (s : Station) :
    Touches [.tbi, .ftc, .inq, .fie, .rbe, .mar, .scn] s (s.requesterDone b) := by
  unfold Station.requesterDone
  split
  · exact (touches_scanDone s _ _ _ _).mono (by decide)
  · exact (touches_onMar _ s).mono (by decide)
  · exact (touches_applyDone s _ _ _).mono (by decide)
  · exact (touches_initBurstDone s _ _).mono (by decide)
  · exact (touches_initBurstDone s _ _).mono (by decide)
  · exact (touches_readDone s _ _ _ _).mono (by decide)

/-- Beside the debt of a refresh burst no requester's work touches the arbiter. -/
theorem Station.requesterDone_mar (b : Burst) (s : Station) :
    (s.requesterDone b).mar = if b.work.requester = .mref then { s.mar with debt := s.mar.debt - 1 } else s.mar := by
  obtain ⟨w, d⟩ := b
  cases w with
  | mref => rfl
  | scan buf line seg => exact (touches_scanDone s _ _ _ _).mar (by decide)
  | apply sp op mask vs slot => exact (touches_applyDone s _ _ _).mar (by decide)
  | initFill sp c => exact (touches_initBurstDone s _ _).mar (by decide)
  | initCopy src sp => exact (touches_initBurstDone s _ _).mar (by decide)
  | read sp q tag => exact (touches_readDone s _ _ _ _).mar (by decide)

/-- A burst that writes nothing leaves the memory as it is. -/
theorem Station.endBurst_of_reads {b : Burst} (reads : b.work.written = none) :
    Touches [.mar, .ftc] s (s.endBurst b) := by
  have same : b.work.write s.mem = s.mem := by
    obtain ⟨w, d⟩ := b
    cases w <;> first | rfl | cases reads
  have kept : s.onMem b.work.write = s := by rw [Station.onMem, same]
  unfold Station.endBurst
  rw [kept]
  exact .step (touches_onMar _ _) (touches_onFtc _ _) (by decide) (by decide)

theorem Station.endBurst_ftc (b : Burst) (s : Station) :
    (s.endBurst b).ftc = { s.ftc with buffers := (s.endBurst b).ftc.buffers } := Ftc.unmarkAll_eq _ _

/-- A grant moves the history and the burst of the arbiter, and marks of buffers. -/
theorem Station.decideGrant_moves (s : Station) :
    (∃ (h : List Requester) (x : Option Burst), s.decideGrant.mar = { s.mar with history := h, burst := x }) ∧
    s.decideGrant.ftc = { s.ftc with buffers := s.decideGrant.ftc.buffers } ∧
    ∀ b, (s.decideGrant.ftc.buffers.get b).state = (s.ftc.buffers.get b).state ∧
      (s.decideGrant.ftc.buffers.get b).frame = (s.ftc.buffers.get b).frame := by
  have granted (r : Requester) : (∃ (h : List Requester) (x : Option Burst),
      (s.grant r).mar = { s.mar with history := h, burst := x }) ∧
      (s.grant r).ftc = { s.ftc with buffers := (s.grant r).ftc.buffers } ∧
      ∀ b, ((s.grant r).ftc.buffers.get b).state = (s.ftc.buffers.get b).state ∧
        ((s.grant r).ftc.buffers.get b).frame = (s.ftc.buffers.get b).frame := by
    cases formed : s.formBurst r with
    | none =>
      rw [show s.grant r = s by simp only [Station.grant, formed]]
      exact ⟨⟨_, _, rfl⟩, rfl, fun _ => ⟨rfl, rfl⟩⟩
    | some w =>
      rw [Station.grant_of_burst formed]
      refine ⟨⟨_, _, rfl⟩, Ftc.markAll_eq _ _, fun b => ?_⟩
      have marked := Ftc.markAll_get w.targets s.ftc b
      simp only [Station.onFtc_ftc, Station.onMar_ftc, marked]
      split <;> exact ⟨rfl, rfl⟩
  cases chosen : s.candidate with
  | none =>
    rw [Station.decideGrant_of_none chosen]
    exact ⟨⟨_, _, rfl⟩, rfl, fun _ => ⟨rfl, rfl⟩⟩
  | some r =>
    rw [Station.decideGrant_of_some chosen]
    exact granted r

theorem Station.complete_of_burst {b : Burst} (h : s.mar.burst = some b) :
    s.complete b.work.requester = ((s.endBurst b).requesterDone b).decideGrant := by
  simp only [Station.complete, h, if_true]

theorem Station.complete_of_other {r : Requester} (h : s.mar.inFlight ≠ some r) : s.complete r = s := by
  unfold Station.complete
  cases burst : s.mar.burst with
  | none => rfl
  | some b => exact if_neg fun same => h (by rw [Mar.inFlight, burst, Option.map_some, same])

/-- What a completion leaves of the arbiter: the debt but for a refresh burst, and the timer. -/
theorem Station.complete_mar {b : Burst} (h : s.mar.burst = some b) :
    (s.complete b.work.requester).mar.debt =
      (if b.work.requester = .mref then s.mar.debt - 1 else s.mar.debt) ∧
    (s.complete b.work.requester).mar.timer = s.mar.timer := by
  obtain ⟨⟨history, next, mar⟩, -, -⟩ := ((s.endBurst b).requesterDone b).decideGrant_moves
  rw [Station.complete_of_burst h, mar, Station.requesterDone_mar]
  split <;> exact ⟨rfl, rfl⟩

/-- What a completion leaves of the frame table but its buffers is what the requester's work leaves. -/
theorem Station.complete_ftc {b : Burst} (h : s.mar.burst = some b) :
    (s.complete b.work.requester).ftc =
      { ((s.endBurst b).requesterDone b).ftc with buffers := (s.complete b.work.requester).ftc.buffers } := by
  obtain ⟨-, ftc, -⟩ := ((s.endBurst b).requesterDone b).decideGrant_moves
  rw [Station.complete_of_burst h]
  exact ftc

/-- A requester's work that leaves the frame table leaves all of it but the marks. -/
theorem Station.complete_ftc_of_still {b : Burst} (h : s.mar.burst = some b)
    (same : ((s.endBurst b).requesterDone b).ftc = (s.endBurst b).ftc) :
    (s.complete b.work.requester).ftc = { s.ftc with buffers := (s.complete b.work.requester).ftc.buffers } := by
  refine (Station.complete_ftc h).trans ?_
  rw [same, Station.endBurst_ftc]

theorem Station.complete_rest {b : Burst} (h : s.mar.burst = some b) :
    Touches [.mar, .ftc] ((s.endBurst b).requesterDone b) (s.complete b.work.requester) := by
  rw [Station.complete_of_burst h]
  exact touches_decideGrant _

end

/-- A completion command is the completion of its requester's burst. -/
theorem exec_completion {c : Instr} {r : Requester} {s : State} (live : s.resetAsserted = false)
    (command : (c = .scanBurstComplete ∧ r = .scan) ∨ (c = .mrefBurstComplete ∧ r = .mref) ∨
      (c = .applyBurstComplete ∧ r = .apply) ∨ (c = .initBurstComplete ∧ r = .init) ∨
      (c = .readBurstComplete ∧ r = .read)) :
    exec c s = .next (s.putStation (s.toStation.complete r)) := by
  rcases command with ⟨rfl, rfl⟩ | ⟨rfl, rfl⟩ | ⟨rfl, rfl⟩ | ⟨rfl, rfl⟩ | ⟨rfl, rfl⟩ <;> exact onLive_live live

/-- Settles O44: the end of the burst, the requester's work, then a grant as at an idle arbiter. -/
theorem completionClearsTheMarksAndDecides : Obligations.CompletionClearsTheMarksAndDecides := by
  intro c r s live command
  refine ⟨fun other => ?_, fun b burst requester => ?_⟩
  · rw [exec_completion live command, Station.complete_of_other other]
    rfl
  · subst requester
    have idle : ((s.toStation.endBurst b).requesterDone b).mar.burst = none := Station.requesterDone_burst b _
    have touched : Touches [.tbi, .ftc, .inq, .fie, .rbe, .mar, .scn, .mem] s.toStation
        ((s.toStation.endBurst b).requesterDone b) :=
      .step (touches_endBurst _ b) (touches_requesterDone b _) (by decide) (by decide)
    refine ⟨_, (s.toStation.endBurst b).requesterDone b, exec_completion live command, idle, ?_, ?_, fun x d hd => ?_,
      fun none => ?_, fun q some_ => ?_, .of_touches (touched.step (Station.complete_rest burst) (by decide) (by decide))⟩
    · rw [Station.requesterDone_mar]
      split <;> rfl
    · rw [Station.requesterDone_mar]
      split <;> rfl
    · rw [Station.requesterDone_get, hd]
      rfl
    · rw [State.putStation_toStation, Station.complete_of_burst burst, Station.decideGrant_of_none none]
    · have live' : ((s.toStation.endBurst b).requesterDone b).resetAsserted = false :=
        (touched .reset (by decide)).trans live
      rw [exec_requestAtIdleArbiter q (s := { s with toStation := (s.toStation.endBurst b).requesterDone b }) live',
        Station.requestAtIdle_of_idle idle (Station.requests_of_candidate some_), Station.complete_of_burst burst,
        Station.decideGrant_of_some some_]
      rfl

/-! ## The refresh debt (R131) -/

/-- Settles O43: the expiry by the debt, and the burst by its completion. -/
theorem refreshDebtRisesAndFalls : Obligations.RefreshDebtRisesAndFalls := by
  refine ⟨fun s live => ?_, fun s d live burst => ?_⟩
  · have runs : exec .memoryRefreshExpiry s = .next (s.putStation s.toStation.refreshExpiry) := onLive_live live
    refine ⟨_, runs, fun below => ?_, fun full => ?_, .of_touches (touches_refreshExpiry _)⟩
    · rw [State.putStation_toStation, Station.refreshExpiry, if_pos below]
      exact ⟨rfl, rfl⟩
    · rw [State.putStation_toStation, Station.refreshExpiry, if_neg (by omega)]
      exact ⟨rfl, rfl⟩
  · have runs := exec_completion (r := .mref) live (.inr (.inl ⟨rfl, rfl⟩))
    obtain ⟨debt, timer⟩ := Station.complete_mar burst
    obtain ⟨-, -, kept⟩ := ((s.toStation.endBurst ⟨.mref, d⟩).requesterDone ⟨.mref, d⟩).decideGrant_moves
    have done : Touches [.mar, .ftc] s.toStation ((s.toStation.endBurst ⟨.mref, d⟩).requesterDone ⟨.mref, d⟩) :=
      .step (Station.endBurst_of_reads rfl) (touches_onMar _ _) (by decide) (by decide)
    refine ⟨_, runs, debt, timer, Station.complete_ftc burst, fun b => ?_,
      .of_touches (done.step (Station.complete_rest burst) (by decide) (by decide))⟩
    have same := kept b
    rw [← Station.complete_of_burst burst] at same
    exact same

/-! ## SCAN and READ bursts (R152, R166) -/

theorem Station.scanDone_of_current {s : Station} {b : Buf} {l g : Nat} (fetch : s.scn.fetch = some ⟨l, g⟩) :
    s.scanDone b l g false = s.onScn fun c => { c with
      fifo := c.fifo ++ [⟨⟨l, g⟩, Memory.readRun s.mem b l (64 * g) 64⟩]
      fetch := s.nextSegment ⟨l, g⟩ } :=
  if_pos ⟨rfl, fetch⟩

theorem Station.scanDone_of_other {s : Station} {b : Buf} {l g : Nat} {d : Bool}
    (h : d = true ∨ s.scn.fetch ≠ some ⟨l, g⟩) : s.scanDone b l g d = s :=
  if_neg fun ⟨kept, fetch⟩ => h.elim (fun lost => by simp [kept] at lost) fun other => other fetch

/-- Settles O45: the segment of the fetch position enters the FIFO. -/
theorem scanBurstFillsTheFifo : Obligations.ScanBurstFillsTheFifo := by
  intro s b l g d live burst
  have runs := exec_completion (r := .scan) live (.inl ⟨rfl, rfl⟩)
  obtain ⟨debt, timer⟩ := Station.complete_mar burst
  have scn : (s.toStation.complete .scan).scn =
      ((s.toStation.endBurst ⟨.scan b l g, d⟩).scanDone b l g d).scn :=
    (Station.complete_rest burst).scn (by decide)
  have done : Touches [.scn, .mar, .ftc] s.toStation ((s.toStation.endBurst ⟨.scan b l g, d⟩).scanDone b l g d) :=
    .step (Station.endBurst_of_reads rfl) (touches_scanDone _ _ _ _ _) (by decide) (by decide)
  refine ⟨_, runs, fun kept fetch => ?_, fun lost => ?_, debt, timer, ?_,
    .of_touches (done.step (Station.complete_rest burst) (by decide) (by decide))⟩
  · subst kept
    refine ⟨Memory.readRun s.mem b l (64 * g) 64, Memory.readRun_length .., fun i hi => Memory.readRun_getElem? _ _ _ _ hi,
      scn.trans ?_⟩
    rw [Station.scanDone_of_current (s := s.toStation.endBurst ⟨.scan b l g, false⟩) fetch]
    rfl
  · refine scn.trans ?_
    rw [Station.scanDone_of_other (s := s.toStation.endBurst ⟨.scan b l g, d⟩) lost]
    rfl
  · exact Station.complete_ftc_of_still burst (Station.scanDone_ftc _ _ _ _ _)

theorem Station.readDone_of_lost {s : Station} {sp : Span} {q : Nat} {tag : Byte} {d : Bool}
    (h : d = true ∨ ∀ k ∈ s.rbe, ¬(k.requester = q ∧ k.tag = tag)) : s.readDone sp q tag d = s := by
  cases d with
  | true => rfl
  | false =>
    have none : s.rbe.find? (ReadRecord.isOf q tag) = none := by
      simpa [ReadRecord.isOf] using h
    simp [Station.readDone, none]

theorem Station.readDone_of_record {s : Station} {sp : Span} {q : Nat} {tag : Byte} {k : ReadRecord}
    (h : s.rbe.find? (ReadRecord.isOf q tag) = some k) :
    s.readDone sp q tag false =
      (s.onTbi (Tbi.push (.readReply (s.replyOf k (Memory.readRun s.mem sp.buffer sp.line sp.col sp.count))))).onRbe
        (List.map fun x => if x.isOf q tag then x.advance sp.count else x) := by
  simp only [Station.readDone, h, Bool.false_eq_true, if_false]

theorem ReadRecord.advance_eq (n : Nat) (k : ReadRecord) :
    k.advance n = { k with
      nextChunk := k.nextChunk + 1, unconfirmed := k.unconfirmed + 1
      row := if k.col + n < k.rect.width then k.row else k.row + 1
      col := if k.col + n < k.rect.width then k.col + n else 0 } := by
  unfold ReadRecord.advance
  dsimp only
  split <;> rfl

/-- Settles O48: the reply of the burst's pixels, and the record moved on. -/
theorem readBurstQueuesOneReply : Obligations.ReadBurstQueuesOneReply := by
  intro s sp q tag d live burst
  have runs := exec_completion (r := .read) live (.inr (.inr (.inr (.inr ⟨rfl, rfl⟩))))
  obtain ⟨debt, timer⟩ := Station.complete_mar burst
  have rest : Touches [.mar, .ftc] ((s.toStation.endBurst ⟨.read sp q tag, d⟩).readDone sp q tag d)
      (s.toStation.complete .read) := Station.complete_rest burst
  have done : Touches [.tbi, .rbe, .mar, .ftc] s.toStation
      ((s.toStation.endBurst ⟨.read sp q tag, d⟩).readDone sp q tag d) :=
    .step (Station.endBurst_of_reads rfl) (touches_readDone _ _ _ _ _) (by decide) (by decide)
  refine ⟨_, runs, fun lost => ?_, fun k kept hk => ?_, debt, timer,
    Station.complete_ftc_of_still burst (Station.readDone_ftc _ _ _ _ _),
    .of_touches (done.step rest (by decide) (by decide))⟩
  · rw [State.putStation_toStation, rest.tbi (by decide), rest.rbe (by decide),
      Station.readDone_of_lost (s := s.toStation.endBurst ⟨.read sp q tag, d⟩) lost]
    exact ⟨rfl, rfl⟩
  · subst kept
    have record := Station.readDone_of_record (s := s.toStation.endBurst ⟨.read sp q tag, false⟩) (sp := sp) hk
    refine ⟨Memory.readRun s.mem sp.buffer sp.line sp.col sp.count, Memory.readRun_length .., fun i hi =>
      Memory.readRun_getElem? _ _ _ _ hi, ?_, ?_⟩
    · have named := List.find?_some hk
      simp only [Bool.and_eq_true, beq_iff_eq] at named
      obtain ⟨rfl, rfl⟩ := named
      rw [State.putStation_toStation, rest.tbi (by decide), record]
      simp only [Station.replyOf, Memory.readRun_length]
      rfl
    · rw [State.putStation_toStation, rest.rbe (by decide), record]
      simp only [ReadRecord.advance_eq, ReadRecord.isOf, Bool.and_eq_true, beq_iff_eq]
      rfl

end Sys2Proof.Machine
end

section
/-! PROOF. The APPLY burst: the pixels it combines, and the record it ends (R65, R92, R107, R108). -/

namespace Sys2Proof.Machine

/-! ## The pixels of a run (R92, R107, R119, R120) -/

theorem pixelAddr_add (b : Buf) (line col i : Nat) : pixelAddr b line (col + i) = pixelAddr b line col + 4 * i := by
  unfold pixelAddr
  omega

theorem Memory.readPixel_congr {m m' : Memory} {b : Buf} {line col : Nat}
    (h : ∀ i < 4, Memory.read m' (pixelAddr b line col + i) = Memory.read m (pixelAddr b line col + i)) :
    Memory.readPixel m' b line col = Memory.readPixel m b line col := by
  have h0 := h 0 (by omega)
  rw [Nat.add_zero] at h0
  simp only [Memory.readPixel, h0, h 1 (by omega), h 2 (by omega), h 3 (by omega)]

/-- The pixels to the right of a place do not touch it. -/
theorem Memory.readPixel_writeRun_right (b : Buf) (line col : Nat) (ps : List Pixel) {m : Memory}
    (h : Memory.wf m = true) :
    Memory.readPixel (Memory.writeRun b line (col + 1) ps m) b line col = Memory.readPixel m b line col := by
  refine Memory.readPixel_congr fun i hi => Memory.read_writeRun_ne _ _ _ _ h (.inl ?_)
  rw [pixelAddr_add]
  omega

theorem Memory.readPixel_combineRun_right (op : RasterOp) (mask : BitVec 4) (b : Buf) (line col : Nat) (ps : List Pixel)
    {m : Memory} (h : Memory.wf m = true) :
    Memory.readPixel (Memory.combineRun op mask b line (col + 1) ps m) b line col = Memory.readPixel m b line col := by
  refine Memory.readPixel_congr fun i hi => Memory.read_combineRun_ne _ _ _ _ _ _ h (.inl ?_)
  rw [pixelAddr_add]
  omega

/-- A pixel right of a written one is as before. -/
theorem Memory.readPixel_writePixel_left (b : Buf) (line col i : Nat) (p : Pixel) {m : Memory}
    (h : Memory.wf m = true) :
    Memory.readPixel (Memory.writePixel m b line col p) b line (col + 1 + i) =
      Memory.readPixel m b line (col + 1 + i) := by
  refine Memory.readPixel_writePixel_apart p h (.inr ?_)
  rw [Nat.add_assoc, pixelAddr_add]
  omega

theorem Memory.readPixel_writeRun (b : Buf) (line col : Nat) {ps : List Pixel} {i : Nat} {p : Pixel} {m : Memory}
    (h : Memory.wf m = true) (hp : ps[i]? = some p) :
    Memory.readPixel (Memory.writeRun b line col ps m) b line (col + i) = p := by
  induction ps generalizing col i m with
  | nil => simp at hp
  | cons q ps ih =>
    have written := Memory.wf_writePixel b line col q h
    cases i with
    | zero =>
      simp only [List.getElem?_cons_zero, Option.some.injEq] at hp
      subst hp
      rw [Memory.writeRun, show col + 0 = col from rfl, Memory.readPixel_writeRun_right _ _ _ _ written,
        Memory.readPixel_writePixel _ _ _ _ h]
    | succ i =>
      rw [Memory.writeRun, show col + (i + 1) = col + 1 + i by omega]
      exact ih _ written hp

theorem Memory.readPixel_combineRun (op : RasterOp) (mask : BitVec 4) (b : Buf) (line col : Nat) {ps : List Pixel}
    {i : Nat} {p : Pixel} {m : Memory} (h : Memory.wf m = true) (hp : ps[i]? = some p) :
    Memory.readPixel (Memory.combineRun op mask b line col ps m) b line (col + i) =
      combinePixel op mask (Memory.readPixel m b line (col + i)) p := by
  induction ps generalizing col i m with
  | nil => simp at hp
  | cons q ps ih =>
    have written := Memory.wf_writePixel b line col (combinePixel op mask (Memory.readPixel m b line col) q) h
    cases i with
    | zero =>
      simp only [List.getElem?_cons_zero, Option.some.injEq] at hp
      subst hp
      rw [Memory.combineRun, show col + 0 = col from rfl, Memory.readPixel_combineRun_right _ _ _ _ _ _ written,
        Memory.readPixel_writePixel _ _ _ _ h]
    | succ i =>
      rw [Memory.combineRun, show col + (i + 1) = col + 1 + i by omega, ih _ written hp,
        Memory.readPixel_writePixel_left _ _ _ _ _ h]

section
variable {s : Station}

theorem Station.complete_mem_of_burst {b : Burst} (h : s.mar.burst = some b) :
    (s.complete b.work.requester).mem = b.work.write s.mem := by
  rw [Station.complete_of_burst h]
  exact (still_decideGrant _).mem.trans (still_requesterDone _ _).mem

/-! ## The pending count falls (R65) -/

theorem Station.endBurst_find (b : Burst) (s : Station) (n : FrameNo) :
    (s.endBurst b).ftc.find n = s.ftc.find n :=
  Ftc.find_congr (congrArg Ftc.records (Station.endBurst_ftc b s) :) n

theorem Station.endBurst_readyEntry (b : Burst) (s : Station) (n : FrameNo) :
    (s.endBurst b).readyEntry n = s.readyEntry n :=
  Station.readyEntry_congr (Station.endBurst_find b s _) rfl

/-- A record with one apply record fewer pending. -/
def FrameRecord.applied (r : FrameRecord) : FrameRecord := { r with pending := r.pending - 1 }

/-- The last apply record of a SEALED frame is done. -/
def FrameRecord.appliedOut (r : FrameRecord) : Bool := decide (r.state = .sealed ∧ r.pending ≤ 1)

theorem Station.find_applied (n : FrameNo) (s : Station) :
    (s.onFtc (Ftc.onRecord n fun r => { r with pending := r.pending - 1 })).ftc.find n =
      (s.ftc.find n).map FrameRecord.applied :=
  Ftc.find_onRecord_self _ _ FrameRecord.applied fun _ => rfl

theorem FrameRecord.appliedOut_iff (r : FrameRecord) :
    (r.applied.state = .sealed ∧ r.applied.pending = 0) ↔ r.appliedOut = true := by
  simp [FrameRecord.applied, FrameRecord.appliedOut, Nat.sub_eq_zero_iff_le]

theorem Station.pendingDown_of_held {n : FrameNo} {r : FrameRecord} (hr : s.ftc.find n = some r) :
    s.pendingDown n =
      if r.appliedOut then (s.onFtc (Ftc.onRecord n FrameRecord.applied)).drain n
      else s.onFtc (Ftc.onRecord n FrameRecord.applied) := by
  have held := (Station.find_applied n s).trans (congrArg (Option.map _) hr)
  simp only [Station.pendingDown, held, Option.map_some]
  exact ite_congr (propext r.appliedOut_iff) (fun _ => rfl) fun _ => rfl

theorem Station.pendingDown_of_not_held {n : FrameNo} (hr : s.ftc.find n = none) :
    s.pendingDown n = s.onFtc (Ftc.onRecord n FrameRecord.applied) := by
  have missing := (Station.find_applied n s).trans (congrArg (Option.map _) hr)
  simp only [Station.pendingDown, missing, Option.map_none]
  rfl

theorem Station.find_applied_other {n m : FrameNo} (other : m ≠ n) :
    (s.ftc.onRecord n FrameRecord.applied).find m = s.ftc.find m :=
  Ftc.find_onRecord_other other _ _ fun _ => rfl

/-- What the end of an apply record moves: the count, and the drain of a SEALED frame at 0. -/
theorem Station.pendingDown_moves {n : FrameNo} {r : FrameRecord} (hr : s.ftc.find n = some r) :
    (s.pendingDown n).ftc.find n = some { r with
      pending := r.pending - 1
      state := if r.appliedOut then .drained else r.state
      pins := if r.appliedOut && s.copyWaits n then r.pins + 1 else r.pins } ∧
    (s.pendingDown n).tbi =
      { s.tbi with queue := s.tbi.queue ++ if r.appliedOut then s.readyEntry n else [] } ∧
    (s.pendingDown n).fie = (if r.appliedOut && s.copyWaits n then copyBegun r.buffer s.fie else s.fie) := by
  have held : (s.onFtc (Ftc.onRecord n FrameRecord.applied)).ftc.find n = some r.applied :=
    (Ftc.find_onRecord_self _ _ FrameRecord.applied fun _ => rfl).trans (congrArg (Option.map _) hr)
  rw [Station.pendingDown_of_held hr]
  cases out : r.appliedOut with
  | false => exact ⟨held, by simp, rfl⟩
  | true =>
    have entry : (s.onFtc (Ftc.onRecord n FrameRecord.applied)).readyEntry n = s.readyEntry n :=
      Station.readyEntry_congr (Station.find_applied_other (FrameNo.sub_one_ne n)) rfl
    rw [if_pos rfl, Station.drain_of_held held, entry]
    refine ⟨?_, rfl, ?_⟩
    · exact (Ftc.find_onRecord_self _ _ (FrameRecord.drainedAs _) fun _ => rfl).trans (congrArg (Option.map _) held)
    · show (if s.copyWaits n then copyBegun r.buffer else id) s.fie = _
      cases s.copyWaits n <;> rfl

theorem Station.pendingDown_find_other {n m : FrameNo} (other : m ≠ n) :
    (s.pendingDown n).ftc.find m = s.ftc.find m := by
  have applied := Station.find_applied_other (s := s) other
  cases hr : s.ftc.find n with
  | none =>
    rw [Station.pendingDown_of_not_held hr]
    exact applied
  | some r =>
    have held : (s.onFtc (Ftc.onRecord n FrameRecord.applied)).ftc.find n = some r.applied :=
      (Ftc.find_onRecord_self _ _ FrameRecord.applied fun _ => rfl).trans (congrArg (Option.map _) hr)
    rw [Station.pendingDown_of_held hr]
    split
    · rw [Station.drain_of_held held]
      exact (Ftc.find_onRecord_other other _ (FrameRecord.drainedAs _) fun _ => rfl).trans applied
    · exact applied

/-- The end of an apply record leaves the table but its records. -/
theorem Station.pendingDown_table (n : FrameNo) (s : Station) :
    (s.pendingDown n).ftc = { s.ftc with records := (s.pendingDown n).ftc.records } := by
  cases hr : s.ftc.find n with
  | none =>
    rw [Station.pendingDown_of_not_held hr]
    rfl
  | some r =>
    have held : (s.onFtc (Ftc.onRecord n FrameRecord.applied)).ftc.find n = some r.applied :=
      (Ftc.find_onRecord_self _ _ FrameRecord.applied fun _ => rfl).trans (congrArg (Option.map _) hr)
    rw [Station.pendingDown_of_held hr]
    split
    · rw [Station.drain_of_held held]
      rfl
    · rfl

end

end Sys2Proof.Machine
end

section
/-! PROOF. `APPLY_BURST_COMPLETE` settled, branch by branch of the record's progress (R65, R92, R107, R108). -/

namespace Sys2Proof.Machine

/-! ## Raster operations (R92) -/

theorem combinePixel_of_op {op : RasterOp} {f : Byte → Byte → Byte} (h : op.apply = f) (mask : BitVec 4)
    (old new : Pixel) : combinePixel op mask old new =
      { r := if mask.getLsbD 3 then f old.r new.r else old.r
        g := if mask.getLsbD 2 then f old.g new.g else old.g
        b := if mask.getLsbD 1 then f old.b new.b else old.b
        a := if mask.getLsbD 0 then f old.a new.a else old.a } := by
  subst h
  rfl

/-! ## The record's progress (R105, R108) -/

section
variable {s : Station} {n slot : Nat} {k : ApplyRecord}

theorem Station.applyDone_of_advance {k' : ApplyRecord} (hk : s.inq[slot]? = some k) (more : k.advance n = some k') :
    s.applyDone n slot false = s.onInq fun q => q.set slot k' := by
  simp only [Station.applyDone, hk, more, Bool.false_eq_true, if_false]

theorem Station.applyDone_of_last (hk : s.inq[slot]? = some k) (last : k.advance n = none) :
    s.applyDone n slot false = (s.onInq fun q => q.eraseIdx slot).pendingDown k.frame := by
  simp only [Station.applyDone, hk, last, Bool.false_eq_true, if_false]

/-- What the last burst of a record reports to the frame it writes. -/
theorem Station.applyDone_moves {r : FrameRecord} (hk : s.inq[slot]? = some k) (last : k.advance n = none)
    (hr : s.ftc.find k.frame = some r) :
    (s.applyDone n slot false).ftc.find k.frame = some { r with
      pending := r.pending - 1
      state := if r.appliedOut then .drained else r.state
      pins := if r.appliedOut && s.copyWaits k.frame then r.pins + 1 else r.pins } ∧
    (s.applyDone n slot false).tbi =
      { s.tbi with queue := s.tbi.queue ++ if r.appliedOut then s.readyEntry k.frame else [] } ∧
    (s.applyDone n slot false).fie =
      (if r.appliedOut && s.copyWaits k.frame then copyBegun r.buffer s.fie else s.fie) := by
  rw [Station.applyDone_of_last hk last]
  exact Station.pendingDown_moves (s := s.onInq fun q => q.eraseIdx slot) hr

theorem Station.applyDone_find_other {m : FrameNo} (hk : s.inq[slot]? = some k) (last : k.advance n = none)
    (other : m ≠ k.frame) : (s.applyDone n slot false).ftc.find m = s.ftc.find m := by
  rw [Station.applyDone_of_last hk last]
  exact Station.pendingDown_find_other (s := s.onInq fun q => q.eraseIdx slot) other

theorem Station.applyDone_inq (hk : s.inq[slot]? = some k) (last : k.advance n = none) :
    (s.applyDone n slot false).inq = s.inq.eraseIdx slot := by
  rw [Station.applyDone_of_last hk last]
  exact (touches_pendingDown _ _).inq (by decide)

theorem Station.applyDone_of_not_held (hk : s.inq[slot]? = some k) (last : k.advance n = none)
    (hr : s.ftc.find k.frame = none) :
    (s.applyDone n slot false).tbi = s.tbi ∧ (s.applyDone n slot false).fie = s.fie := by
  rw [Station.applyDone_of_last hk last,
    Station.pendingDown_of_not_held (s := s.onInq fun q => q.eraseIdx slot) hr]
  exact ⟨rfl, rfl⟩

/-- The end of an apply record leaves the table but its records. -/
theorem Station.applyDone_table (n slot : Nat) (d : Bool) (s : Station) :
    (s.applyDone n slot d).ftc = { s.ftc with records := (s.applyDone n slot d).ftc.records } := by
  cases d with
  | true => rfl
  | false =>
    cases hk : s.inq[slot]? with
    | none => simp only [Station.applyDone, hk, Bool.false_eq_true, if_false]
    | some k =>
      cases ha : k.advance n with
      | some k' =>
        rw [Station.applyDone_of_advance hk ha]
        rfl
      | none =>
        rw [Station.applyDone_of_last hk ha]
        exact Station.pendingDown_table k.frame (s.onInq fun q => q.eraseIdx slot)

end

/-- What the rest of a completion leaves of what the requester's work made: the frame table but the buffers. -/
theorem Station.complete_find {s : Station} {b : Burst} (h : s.mar.burst = some b) (n : FrameNo) :
    (s.complete b.work.requester).ftc.find n = ((s.endBurst b).requesterDone b).ftc.find n :=
  Ftc.find_congr (congrArg Ftc.records (Station.complete_ftc h) :) n

/-- Settles O46: the combined pixels, then the three ways a record goes on. -/
theorem applyBurstWritesAndAdvances : Obligations.ApplyBurstWritesAndAdvances := by
  refine ⟨?_, fun s sp op mask vs slot d live wf burst => ?_⟩
  · rintro op mask old new f (⟨rfl, rfl⟩ | ⟨rfl, rfl⟩ | ⟨rfl, rfl⟩ | ⟨rfl, rfl⟩) <;> exact combinePixel_of_op rfl ..
  have runs := exec_completion (r := .apply) live (.inr (.inr (.inl ⟨rfl, rfl⟩)))
  obtain ⟨debt, timer⟩ := Station.complete_mar burst
  have mem : (s.toStation.complete .apply).mem = Memory.combineRun op mask sp.buffer sp.line sp.col vs s.mem :=
    Station.complete_mem_of_burst burst
  have rest : Touches [.mar, .ftc] ((s.toStation.endBurst ⟨.apply sp op mask vs slot, d⟩).applyDone sp.count slot d)
      (s.toStation.complete .apply) := Station.complete_rest burst
  have ftc : (s.toStation.complete .apply).ftc =
      { ((s.toStation.endBurst ⟨.apply sp op mask vs slot, d⟩).applyDone sp.count slot d).ftc with
        buffers := (s.toStation.complete .apply).ftc.buffers } := Station.complete_ftc burst
  have table := Station.applyDone_table sp.count slot d (s.toStation.endBurst ⟨.apply sp op mask vs slot, d⟩)
  have find : ∀ n, (s.toStation.complete .apply).ftc.find n =
      ((s.toStation.endBurst ⟨.apply sp op mask vs slot, d⟩).applyDone sp.count slot d).ftc.find n :=
    Station.complete_find burst
  have done : Touches [.mem, .inq, .ftc, .mar, .tbi, .fie] s.toStation
      ((s.toStation.endBurst ⟨.apply sp op mask vs slot, d⟩).applyDone sp.count slot d) :=
    .step (touches_endBurst _ _) (touches_applyDone _ _ _ _) (by decide) (by decide)
  refine ⟨_, runs, fun i v hv => ?_, fun a ha => ?_, fun lost => ?_, fun k kept hk => ?_, debt, timer, ?_, ?_, ?_,
    .of_touches (done.step rest (by decide) (by decide))⟩
  · rw [State.putStation_toStation, mem, Memory.readPixel_combineRun _ _ _ _ _ wf hv]
  · rw [State.putStation_toStation, mem, Memory.read_combineRun_ne _ _ _ _ _ _ wf ha]
  · subst lost
    rw [State.putStation_toStation, rest.inq (by decide), rest.tbi (by decide), rest.fie (by decide), ftc]
    exact ⟨rfl, rfl, rfl, rfl⟩
  · subst kept
    rw [State.putStation_toStation, rest.inq (by decide), rest.tbi (by decide), rest.fie (by decide)]
    refine ⟨fun more => ?_, fun full more => ?_, fun full last => ?_⟩
    · rw [ftc, Station.applyDone_of_advance (s := s.toStation.endBurst ⟨.apply sp op mask vs slot, false⟩) hk
        (if_pos more)]
      exact ⟨rfl, rfl, rfl, rfl⟩
    · rw [ftc, Station.applyDone_of_advance (s := s.toStation.endBurst ⟨.apply sp op mask vs slot, false⟩) hk
        ((if_neg (Nat.not_lt.mpr full)).trans (if_pos more))]
      exact ⟨rfl, rfl, rfl, rfl⟩
    · have ended : k.advance sp.count = none := (if_neg (Nat.not_lt.mpr full)).trans (if_neg (Nat.not_lt.mpr last))
      have same := Station.endBurst_find ⟨.apply sp op mask vs slot, false⟩ s.toStation
      have entry := Station.endBurst_readyEntry ⟨.apply sp op mask vs slot, false⟩ s.toStation k.frame
      simp only [find]
      refine ⟨Station.applyDone_inq (s := s.toStation.endBurst ⟨.apply sp op mask vs slot, false⟩) hk ended, ?_,
        fun none => Station.applyDone_of_not_held (s := s.toStation.endBurst ⟨.apply sp op mask vs slot, false⟩) hk ended
          ((same _).trans none), fun f other => ?_⟩
      · rintro r drains hr rfl
        have moves := Station.applyDone_moves (s := s.toStation.endBurst ⟨.apply sp op mask vs slot, false⟩) hk ended
          ((same _).trans hr)
        rw [entry] at moves
        exact moves
      · exact (Station.applyDone_find_other (s := s.toStation.endBurst ⟨.apply sp op mask vs slot, false⟩) hk ended
          other).trans (same _)
  · rw [State.putStation_toStation, ftc, table, Station.endBurst_ftc]
  · rw [State.putStation_toStation, ftc, table, Station.endBurst_ftc]
  · rw [State.putStation_toStation, ftc, table, Station.endBurst_ftc]

end Sys2Proof.Machine
end

section
/-! PROOF. Pins dropped, and a frame that leaves INIT (R60, R64, R67, R69). -/

namespace Sys2Proof.Machine

/-! ## A pin of a frame (R67, R69) -/

/-- A record with one pin fewer. -/
def FrameRecord.pinLost (r : FrameRecord) : FrameRecord := { r with pins := r.pins - 1 }

/-- The last pin of a RETIRING record holds it. -/
def FrameRecord.heldByPin (r : FrameRecord) : Prop := r.state = .retiring ∧ r.pins ≤ 1

section
variable {t : Ftc} {n : FrameNo} {r : FrameRecord}

theorem Ftc.find_pinLost (t : Ftc) (n : FrameNo) :
    (t.onRecord n FrameRecord.pinLost).find n = (t.find n).map FrameRecord.pinLost :=
  Ftc.find_onRecord_self _ _ FrameRecord.pinLost fun _ => rfl

theorem FrameRecord.pinLost_held_iff (r : FrameRecord) :
    (r.pinLost.state = .retiring ∧ r.pinLost.pins = 0) ↔ r.heldByPin :=
  and_congr Iff.rfl Nat.sub_eq_zero_iff_le

theorem Ftc.pinDown_of_dropped (hr : t.find n = some r) (held : r.heldByPin) :
    t.pinDown n = (t.onRecord n FrameRecord.pinLost).dropRecord n := by
  have found : (t.onRecord n fun r => { r with pins := r.pins - 1 }).find n = some r.pinLost :=
    (t.find_pinLost n).trans (congrArg (Option.map _) hr)
  simp only [Ftc.pinDown, found]
  exact if_pos (r.pinLost_held_iff.mpr held)

theorem Ftc.pinDown_of_kept (kept : ∀ r, t.find n = some r → ¬r.heldByPin) :
    t.pinDown n = t.onRecord n FrameRecord.pinLost := by
  have found : (t.onRecord n fun r => { r with pins := r.pins - 1 }).find n = (t.find n).map FrameRecord.pinLost :=
    t.find_pinLost n
  cases hr : t.find n with
  | none =>
    rw [hr] at found
    simp only [Ftc.pinDown, found, Option.map_none]
    rfl
  | some r =>
    rw [hr] at found
    simp only [Ftc.pinDown, found, Option.map_some]
    exact if_neg fun held => kept r hr (r.pinLost_held_iff.mp held)

theorem Ftc.dropRecord_records (n : FrameNo) (t : Ftc) :
    (t.dropRecord n).records = t.records.filter fun r => r.frame != n := by
  unfold Ftc.dropRecord
  split
  · next missing =>
    have others : ∀ r ∈ t.records, ¬(r.frame == n) = true := List.find?_eq_none.mp missing
    refine (List.filter_eq_self.mpr fun r hr => ?_).symm
    simpa using others r hr
  · rfl

theorem Ftc.dropRecord_find_self (n : FrameNo) (t : Ftc) : (t.dropRecord n).find n = none := by
  refine List.find?_eq_none.mpr fun r hr => ?_
  rw [Ftc.dropRecord_records] at hr
  simpa using (List.mem_filter.mp hr).2

theorem Ftc.dropRecord_find_other {m : FrameNo} (other : m ≠ n) (t : Ftc) : (t.dropRecord n).find m = t.find m := by
  simp only [Ftc.find, Ftc.dropRecord_records, List.find?_filter]
  refine congrArg (t.records.find? ·) (funext fun r => ?_)
  by_cases named : r.frame = m
  · simp [named, other]
  · simp [named]

theorem Ftc.pinDown_find_self (t : Ftc) (n : FrameNo) : (t.pinDown n).find n =
    (t.find n).bind fun r => if r.state = .retiring ∧ r.pins ≤ 1 then none else some r.pinLost := by
  cases hr : t.find n with
  | none =>
    rw [Ftc.pinDown_of_kept fun r held => by simp [hr] at held, Ftc.find_pinLost, hr]
    rfl
  | some r =>
    by_cases held : r.heldByPin
    · rw [Ftc.pinDown_of_dropped hr held, Ftc.dropRecord_find_self]
      exact (if_pos held).symm
    · rw [Ftc.pinDown_of_kept fun q hq => Option.some.inj (hr.symm.trans hq) ▸ held, Ftc.find_pinLost, hr]
      exact (if_neg held).symm

theorem Ftc.pinDown_cases (t : Ftc) (n : FrameNo) :
    t.pinDown n = t.onRecord n FrameRecord.pinLost ∨
      t.pinDown n = (t.onRecord n FrameRecord.pinLost).dropRecord n := by
  by_cases kept : ∀ r, t.find n = some r → ¬r.heldByPin
  · exact .inl (Ftc.pinDown_of_kept kept)
  · simp only [Classical.not_forall, Classical.not_not] at kept
    obtain ⟨r, hr, held⟩ := kept
    exact .inr (Ftc.pinDown_of_dropped hr held)

theorem Ftc.pinDown_find_other {m : FrameNo} (other : m ≠ n) (t : Ftc) : (t.pinDown n).find m = t.find m := by
  have kept : (t.onRecord n FrameRecord.pinLost).find m = t.find m :=
    Ftc.find_onRecord_other other _ _ fun _ => rfl
  rcases t.pinDown_cases n with same | same <;> rw [same]
  · exact kept
  · rw [Ftc.dropRecord_find_other other, kept]

theorem Ftc.dropRecord_eq (n : FrameNo) (t : Ftc) : t.dropRecord n =
    { t with records := (t.dropRecord n).records, buffers := (t.dropRecord n).buffers } := by
  unfold Ftc.dropRecord
  split <;> rfl

/-- A dropped pin leaves the table but its records and its buffers. -/
theorem Ftc.pinDown_eq (n : FrameNo) (t : Ftc) : t.pinDown n =
    { t with records := (t.pinDown n).records, buffers := (t.pinDown n).buffers } := by
  rcases t.pinDown_cases n with same | same <;> rw [same]
  · rfl
  · exact Ftc.dropRecord_eq n _

/-- A pin of frame N - 1 does not decide whether it has committed. -/
theorem Ftc.pinDown_predecessorCommitted (t : Ftc) (n : FrameNo) :
    (t.pinDown (n - 1)).predecessorCommitted n = t.predecessorCommitted n := by
  simp only [Ftc.predecessorCommitted, Ftc.pinDown_find_self]
  cases t.find (n - 1) with
  | none => rfl
  | some p =>
    by_cases held : p.state = .retiring ∧ p.pins ≤ 1
    · simp [held, FrameState.hasCommitted]
    · simp [if_neg held, FrameRecord.pinLost]

end

/-! ## A frame leaves INIT (R60, R64) -/

section
variable {s : Station} {n : FrameNo} {r : FrameRecord}

/-- A record as FILLING, where the decision to seal it falls. -/
def FrameRecord.initialised (r : FrameRecord) : FrameRecord := { r with state := .filling }

theorem Station.find_initialised (hr : s.ftc.find n = some r) :
    (s.onFtc (Ftc.onRecord n FrameRecord.initialised)).ftc.find n = some r.initialised :=
  (Ftc.find_onRecord_self _ _ FrameRecord.initialised fun _ => rfl).trans (congrArg (Option.map _) hr)

/-- Of two states given to a record the second stands. -/
theorem Ftc.setState_initialised (n : FrameNo) (st : FrameState) (t : Ftc) :
    (t.onRecord n FrameRecord.initialised).setState n st = t.setState n st :=
  Ftc.onRecord_onRecord n FrameRecord.initialised (fun r => { r with state := st }) (fun _ => rfl) t

/-- Leaving INIT is FILLING, then the decision whether the record is sealed. -/
theorem Station.initDone_of_init (hr : s.ftc.find n = some r) (init : r.state = .init) :
    s.initDone n = (s.onFtc (Ftc.onRecord n FrameRecord.initialised)).applySeal n := by
  have set (st : FrameState) : (s.onFtc (Ftc.onRecord n FrameRecord.initialised)).onFtc (Ftc.setState n st) =
      s.onFtc (Ftc.setState n st) := by
    simp only [Station.onFtc, Ftc.setState_initialised]
  rw [Station.applySeal_of_held (Station.find_initialised hr), Station.drain, set, set, ← Station.drain]
  simp only [Station.initDone, hr, init, if_true, FrameRecord.initialised, FrameRecord.isSealed, true_and]
  by_cases closed : r.closedSources = r.requiredSources
  · simp only [closed, beq_self_eq_true, Bool.true_eq_false, if_false, if_true]
    exact ite_congr rfl (fun _ => rfl) fun _ => rfl
  · simp only [beq_eq_false_iff_ne.mpr closed, Bool.false_eq_true, if_false, if_true]
    rfl

theorem Station.initDone_of_other (other : ∀ r, s.ftc.find n = some r → r.state ≠ .init) : s.initDone n = s := by
  cases hr : s.ftc.find n with
  | none => simp only [Station.initDone, hr]
  | some r => simp only [Station.initDone, hr, if_neg (other r hr)]

end

end Sys2Proof.Machine
end

section
/-! PROOF. The end of an INIT job: its pin, the frame it reports, and the job behind it (R64, R116, R117, R121). -/

namespace Sys2Proof.Machine

section
variable {s : Station} {n : FrameNo} {r : FrameRecord} {j : InitJob} {js : List InitJob}

/-! ## The report of the init engine (R60, R64) -/

theorem Station.initDone_moves (hr : s.ftc.find n = some r) (init : r.state = .init) :
    (s.initDone n).tbi =
      { s.tbi with queue := s.tbi.queue ++ if r.initialised.drains then s.readyEntry n else [] } ∧
    (s.initDone n).fie =
      (if r.initialised.drains && s.copyWaits n then copyBegun r.buffer s.fie else s.fie) ∧
    (s.initDone n).ftc.find n = some (r.initialised.settled (s.copyWaits n)) ∧
    (∀ m, m ≠ n → (s.initDone n).ftc.find m = s.ftc.find m) ∧
    (s.initDone n).ftc = { s.ftc with records := (s.initDone n).ftc.records } := by
  have others (m : FrameNo) (other : m ≠ n) :
      (s.onFtc (Ftc.onRecord n FrameRecord.initialised)).ftc.find m = s.ftc.find m :=
    Ftc.find_onRecord_other other _ _ fun _ => rfl
  have entry : (s.onFtc (Ftc.onRecord n FrameRecord.initialised)).readyEntry n = s.readyEntry n :=
    Station.readyEntry_congr (others _ (FrameNo.sub_one_ne n)) rfl
  obtain ⟨tbi, fie, self, other, table⟩ := Station.applySeal_moves (Station.find_initialised hr)
  rw [entry] at tbi
  rw [Station.initDone_of_init hr init]
  exact ⟨tbi, fie, self, fun m hm => (other m hm).trans (others m hm), table⟩

/-- The state of a record that has left INIT. -/
theorem FrameRecord.initialised_settled_state (waits : Bool) (r : FrameRecord) :
    (r.initialised.settled waits).state = if r.closedSources ≠ r.requiredSources then .filling
      else if 0 < r.pending then .sealed else .drained := by
  rw [FrameRecord.settled_eq]
  by_cases closed : r.closedSources = r.requiredSources
  · simp [FrameRecord.initialised, FrameRecord.isSealed, closed]
  · simp [FrameRecord.initialised, FrameRecord.isSealed, closed]

theorem FrameRecord.initialised_drains (r : FrameRecord) :
    r.initialised.drains = decide (r.closedSources = r.requiredSources ∧ r.pending = 0) := by
  rw [Bool.eq_iff_iff, decide_eq_true_iff]
  simp [FrameRecord.drains, FrameRecord.initialised, FrameRecord.isSealed]

theorem FrameRecord.initialised_settled (waits : Bool) (r : FrameRecord) :
    r.initialised.settled waits = { r with
      state := (r.initialised.settled waits).state, pins := (r.initialised.settled waits).pins } := by
  rw [FrameRecord.settled_eq]
  rfl

/-- Leaving INIT leaves the table but its records. -/
theorem Station.initDone_table (n : FrameNo) (s : Station) :
    (s.initDone n).ftc = { s.ftc with records := (s.initDone n).ftc.records } := by
  by_cases init : ∃ r, s.ftc.find n = some r ∧ r.state = .init
  · obtain ⟨r, hr, init⟩ := init
    exact (Station.initDone_moves hr init).2.2.2.2
  · rw [Station.initDone_of_other fun r hr init' => init ⟨r, hr, init'⟩]

/-! ## What a job is, whatever its progress -/

/-- The frame, the work and the target of a job. -/
def InitJob.task (j : InitJob) : FrameNo × InitWork × Buf := (j.frame, j.work, j.target)

theorem copyBegun_tasks (b : Buf) (js : List InitJob) : (copyBegun b js).map InitJob.task = js.map InitJob.task := by
  cases js <;> rfl

theorem Station.initDone_tasks (n : FrameNo) (s : Station) :
    (s.initDone n).fie.map InitJob.task = s.fie.map InitJob.task := by
  by_cases init : ∃ r, s.ftc.find n = some r ∧ r.state = .init
  · obtain ⟨r, hr, init⟩ := init
    obtain ⟨-, fie, -⟩ := Station.initDone_moves hr init
    rw [fie]
    split
    · exact copyBegun_tasks _ _
    · rfl
  · rw [Station.initDone_of_other fun r hr init' => init ⟨r, hr, init'⟩]

/-- A list's head, when it is reached: what it copies from, and its phase (R116, R117). -/
theorem Station.activateJob_head (hf : s.fie = j :: js) :
    ∃ source phase, phase ≠ .queued ∧ s.activateJob.fie = { j with source, phase } :: js := by
  by_cases queued : j.phase = .queued
  · cases hw : j.work with
    | fill c =>
      rw [Station.activateJob_fill hf queued hw]
      exact ⟨j.source, .running, by decide, by simp [hw]⟩
    | copy =>
      by_cases drained : ∃ p, s.ftc.find (j.frame - 1) = some p ∧ p.state.hasDrained = true
      · obtain ⟨p, hp, drained⟩ := drained
        rw [Station.activateJob_copy hf queued hw hp drained, Station.beginCopy_of_held hf hp]
        exact ⟨some p.buffer, .running, by decide, by simp [hw]⟩
      · rw [Station.activateJob_wait hf queued hw fun p hp =>
          Bool.of_not_eq_true fun yes => drained ⟨p, hp, yes⟩]
        exact ⟨j.source, .waiting, by decide, by simp [hw]⟩
  · rw [Station.activateJob_of_active hf queued]
    exact ⟨j.source, j.phase, queued, hf⟩

theorem Station.activateJob_of_nil (hf : s.fie = []) : s.activateJob = s := by
  simp only [Station.activateJob, hf]

theorem Station.activateJob_tasks (s : Station) : s.activateJob.fie.map InitJob.task = s.fie.map InitJob.task := by
  cases hf : s.fie with
  | nil => rw [Station.activateJob_of_nil hf, hf]
  | cons j js =>
    obtain ⟨source, phase, -, head⟩ := Station.activateJob_head hf
    rw [head]
    rfl

theorem Station.activateJob_active (s : Station) : s.activateJob.HeadActive := by
  intro i is list
  cases hf : s.fie with
  | nil =>
    rw [Station.activateJob_of_nil hf, hf] at list
    exact absurd list (by simp)
  | cons j js =>
    obtain ⟨source, phase, active, head⟩ := Station.activateJob_head hf
    rw [head] at list
    obtain ⟨rfl, -⟩ := List.cons.inj list
    exact active

/-- Reaching a job adds at most pins to the records. -/
theorem Station.activateJob_find (hr : s.ftc.find n = some r) :
    ∃ pins, s.activateJob.ftc.find n = some { r with pins } := by
  rcases s.activateJob_ftc with same | ⟨k, p, -, -, pinned⟩
  · exact ⟨r.pins, by rw [same, hr]⟩
  · rw [pinned]
    by_cases other : n = k
    · subst other
      exact ⟨r.pins + 1, (Ftc.find_onRecord_self _ _ (fun r => { r with pins := r.pins + 1 }) fun _ => rfl).trans
        (congrArg (Option.map _) hr)⟩
    · exact ⟨r.pins, (Ftc.find_onRecord_other other _ (fun r => { r with pins := r.pins + 1 }) fun _ => rfl).trans hr⟩

theorem Station.activateJob_table (s : Station) :
    s.activateJob.ftc = { s.ftc with records := s.activateJob.ftc.records } := by
  rcases s.activateJob_ftc with same | ⟨k, p, -, -, pinned⟩
  · rw [same]
  · rw [pinned]
    rfl

/-! ## The job that ends (R121) -/

/-- The job at the head off the list, with the pin a COPY held. -/
def Station.jobOff (j : InitJob) (s : Station) : Station :=
  (if j.work = .copy then s.onFtc (Ftc.pinDown (j.frame - 1)) else s).onFie List.tail

theorem Station.completeJob_of_head (hf : s.fie = j :: js) :
    s.completeJob = ((s.jobOff j).initDone j.frame).activateJob := by
  simp only [Station.completeJob, hf, Station.jobOff]

theorem Station.jobOff_tbi (j : InitJob) (s : Station) : (s.jobOff j).tbi = s.tbi := by
  unfold Station.jobOff
  split <;> rfl

theorem Station.jobOff_fie (hf : s.fie = j :: js) : (s.jobOff j).fie = js := by
  unfold Station.jobOff
  split <;> simp [Station.onFie, hf]

theorem Station.jobOff_ftc (j : InitJob) (s : Station) :
    (s.jobOff j).ftc = if j.work = .copy then s.ftc.pinDown (j.frame - 1) else s.ftc := by
  unfold Station.jobOff
  split <;> rfl

theorem Station.jobOff_find_other {m : FrameNo} (other : j.work ≠ .copy ∨ m ≠ j.frame - 1) :
    (s.jobOff j).ftc.find m = s.ftc.find m := by
  rw [Station.jobOff_ftc]
  split
  · next copies => exact Ftc.pinDown_find_other (other.resolve_left (not_not_intro copies)) _
  · rfl

theorem Station.jobOff_find_self (j : InitJob) (s : Station) :
    (s.jobOff j).ftc.find j.frame = s.ftc.find j.frame :=
  Station.jobOff_find_other (.inr (FrameNo.sub_one_ne _).symm)

theorem Station.jobOff_readyEntry (j : InitJob) (s : Station) :
    (s.jobOff j).readyEntry j.frame = s.readyEntry j.frame := by
  have committed : (s.jobOff j).ftc.predecessorCommitted j.frame = s.ftc.predecessorCommitted j.frame := by
    rw [Station.jobOff_ftc]
    split
    · exact Ftc.pinDown_predecessorCommitted _ _
    · rfl
  simp only [Station.readyEntry, committed, Station.jobOff_tbi]

theorem Station.jobOff_table (j : InitJob) (s : Station) : (s.jobOff j).ftc =
    { s.ftc with records := (s.jobOff j).ftc.records, buffers := (s.jobOff j).ftc.buffers } := by
  rw [Station.jobOff_ftc]
  split
  · exact Ftc.pinDown_eq _ _
  · rfl

end

end Sys2Proof.Machine
end

section
/-! PROOF. `INIT_BURST_COMPLETE` settled: the prepared pixels, and the end of the job (R64, R116, R119 to R121). -/

namespace Sys2Proof.Machine

section
variable {s : Station} {n : FrameNo} {r : FrameRecord} {j : InitJob} {js : List InitJob}

/-! ## The job behind the one that ends (R116, R117) -/

/-- The job of frame N's successor is a COPY and frame N has drained: it begins as it is reached. -/
def copyBegins (drained : Bool) (js : List InitJob) : Bool := drained && js.head?.any fun i => i.work == .copy

/-- The jobs behind frame N's are unreached, and of its successor. -/
def Follows (n : FrameNo) (js : List InitJob) : Prop := ∀ i ∈ js, i.phase = .queued ∧ i.frame = n + 1

theorem Follows.copyWaits (h : Follows n js) (hf : s.fie = js) : s.copyWaits n = false := by
  rw [← Bool.not_eq_true, Station.copyWaits_iff]
  rintro ⟨i, is, list, -, waiting, -⟩
  have queued := (h i (hf ▸ list ▸ List.mem_cons_self)).1
  exact absurd (queued.symm.trans waiting) (by decide)

theorem Ftc.find_pinUp_self (t : Ftc) (n : FrameNo) :
    (t.pinUp n).find n = (t.find n).map fun r => { r with pins := r.pins + 1 } :=
  Ftc.find_onRecord_self t n (fun r => { r with pins := r.pins + 1 }) fun _ => rfl

theorem Ftc.find_pinUp_other {m : FrameNo} (other : m ≠ n) (t : Ftc) : (t.pinUp n).find m = t.find m :=
  Ftc.find_onRecord_other other t (fun r => { r with pins := r.pins + 1 }) fun _ => rfl

/-- Reaching the job of the successor. -/
theorem Station.activateJob_follows (hf : s.fie = js) (follows : Follows n js) (hr : s.ftc.find n = some r) :
    s.activateJob.ftc = (if copyBegins r.state.hasDrained js then s.ftc.pinUp n else s.ftc) ∧
    ∀ i is, js = i :: is → s.activateJob.fie =
      (if i.work = .copy then
        if copyBegins r.state.hasDrained js then { i with source := some r.buffer, phase := .running }
        else { i with phase := .waiting }
      else { i with phase := .running }) :: is := by
  cases js with
  | nil =>
    rw [Station.activateJob_of_nil hf]
    simp [copyBegins]
  | cons i is =>
    obtain ⟨queued, successor⟩ := follows i List.mem_cons_self
    have before : i.frame - 1 = n := (FrameNo.sub_one_eq_iff _ _).mpr successor
    rw [← before] at hr ⊢
    suffices h : s.activateJob.ftc = (if copyBegins r.state.hasDrained (i :: is) then s.ftc.pinUp (i.frame - 1) else s.ftc) ∧
        s.activateJob.fie = (if i.work = .copy then
          if copyBegins r.state.hasDrained (i :: is) then { i with source := some r.buffer, phase := .running }
          else { i with phase := .waiting }
        else { i with phase := .running }) :: is from
      ⟨h.1, fun i' is' list => by obtain ⟨rfl, rfl⟩ := List.cons.inj list; exact h.2⟩
    cases hw : i.work with
    | fill c =>
      rw [Station.activateJob_fill hf queued hw]
      simp [copyBegins, hw]
    | copy =>
      cases drained : r.state.hasDrained with
      | true =>
        rw [Station.activateJob_copy hf queued hw hr drained, Station.beginCopy_of_held hf hr, Ftc.frame_of_find hr]
        simp [copyBegins, hw]
      | false =>
        rw [Station.activateJob_wait hf queued hw fun p hp => Option.some.inj (hr.symm.trans hp) ▸ drained]
        simp [copyBegins, hw]

/-! ## The end of the job -/

theorem Station.completeJob_tasks (hf : s.fie = j :: js) :
    s.completeJob.fie.map InitJob.task = js.map InitJob.task := by
  rw [Station.completeJob_of_head hf, Station.activateJob_tasks, Station.initDone_tasks, Station.jobOff_fie hf]

theorem Station.completeJob_active (hf : s.fie = j :: js) : s.completeJob.HeadActive := by
  rw [Station.completeJob_of_head hf]
  exact Station.activateJob_active _

/-- The record of the job leaves INIT, whatever jobs stand behind it. -/
theorem Station.completeJob_record (hf : s.fie = j :: js) (hr : s.ftc.find j.frame = some r) (init : r.state = .init) :
    ∃ r', s.completeJob.ftc.find j.frame = some r' ∧
      r' = { r with state := r'.state, pins := r'.pins } ∧
      r'.state = (if r.closedSources ≠ r.requiredSources then .filling
        else if 0 < r.pending then .sealed else .drained) := by
  obtain ⟨-, -, left, -⟩ := Station.initDone_moves ((Station.jobOff_find_self j s).trans hr) init
  obtain ⟨pins, found⟩ := Station.activateJob_find left
  rw [Station.completeJob_of_head hf]
  refine ⟨_, found, ?_, FrameRecord.initialised_settled_state _ r⟩
  rw [FrameRecord.initialised_settled]

theorem FrameRecord.initialised_settled_hasDrained (waits : Bool) (r : FrameRecord) :
    (r.initialised.settled waits).state.hasDrained = r.initialised.drains := by
  rw [FrameRecord.initialised_settled_state, FrameRecord.initialised_drains]
  by_cases closed : r.closedSources = r.requiredSources
  · by_cases none : r.pending = 0
    · simp [closed, none, FrameState.hasDrained]
    · simp [closed, none, Nat.pos_of_ne_zero none, FrameState.hasDrained]
  · simp [closed, FrameState.hasDrained]

theorem Station.completeJob_table (hf : s.fie = j :: js) : s.completeJob.ftc =
    { s.ftc with records := s.completeJob.ftc.records, buffers := s.completeJob.ftc.buffers } := by
  rw [Station.completeJob_of_head hf, Station.activateJob_table, Station.initDone_table, Station.jobOff_table]

/-- The end of a job whose successors' job, if any, stands unreached behind it. -/
theorem Station.completeJob_moves (hf : s.fie = j :: js) (follows : Follows j.frame js)
    (hr : s.ftc.find j.frame = some r) (init : r.state = .init) :
    s.completeJob.tbi =
      { s.tbi with queue := s.tbi.queue ++ if r.initialised.drains then s.readyEntry j.frame else [] } ∧
    (s.completeJob.ftc.find j.frame).map (fun x => x.pins) =
      some (if copyBegins r.initialised.drains js then r.pins + 1 else r.pins) ∧
    (∀ i is, js = i :: is → s.completeJob.fie =
      (if i.work = .copy then
        if copyBegins r.initialised.drains js then { i with source := some r.buffer, phase := .running }
        else { i with phase := .waiting }
      else { i with phase := .running }) :: is) ∧
    ∀ m, m ≠ j.frame → s.completeJob.ftc.find m = (s.jobOff j).ftc.find m := by
  have none := follows.copyWaits (Station.jobOff_fie hf)
  obtain ⟨tbi, fie, self, others, -⟩ := Station.initDone_moves ((Station.jobOff_find_self j s).trans hr) init
  have pins : (r.initialised.settled false).pins = r.pins := by
    rw [FrameRecord.settled_eq]
    simp [FrameRecord.initialised]
  have buffer : (r.initialised.settled false).buffer = r.buffer := by
    rw [FrameRecord.settled_eq]
    rfl
  rw [none, Bool.and_false] at fie
  rw [none] at self
  obtain ⟨reached, next⟩ := Station.activateJob_follows (fie.trans (Station.jobOff_fie hf)) follows self
  rw [FrameRecord.initialised_settled_hasDrained] at reached next
  rw [buffer] at next
  rw [Station.completeJob_of_head hf]
  refine ⟨?_, ?_, next, fun m other => ?_⟩
  · rw [(touches_activateJob _).tbi (by decide), tbi, Station.jobOff_tbi, Station.jobOff_readyEntry]
  · rw [reached]
    split
    · rw [Ftc.find_pinUp_self, self]
      exact congrArg (fun p => some (p + 1)) pins
    · rw [self]
      exact congrArg some pins
  · rw [reached, ← others m other]
    split
    · exact Ftc.find_pinUp_other other _
    · rfl

/-! ## An INIT burst's progress (R119, R139) -/

theorem Station.initBurstDone_of_advance {c : Nat} {j' : InitJob} (hf : s.fie = j :: js)
    (more : j.advance s.width s.height c = some j') : s.initBurstDone c false = s.onFie fun _ => j' :: js := by
  simp only [Station.initBurstDone, hf, more, Bool.false_eq_true, if_false]

theorem Station.initBurstDone_of_last {c : Nat} (hf : s.fie = j :: js)
    (last : j.advance s.width s.height c = none) : s.initBurstDone c false = s.completeJob := by
  simp only [Station.initBurstDone, hf, last, Bool.false_eq_true, if_false]

theorem Station.initBurstDone_table (c : Nat) (d : Bool) (s : Station) : (s.initBurstDone c d).ftc =
    { s.ftc with records := (s.initBurstDone c d).ftc.records, buffers := (s.initBurstDone c d).ftc.buffers } := by
  cases d with
  | true => rfl
  | false =>
    cases hf : s.fie with
    | nil => simp only [Station.initBurstDone, hf, Bool.false_eq_true, if_false]
    | cons j js =>
      cases ha : j.advance s.width s.height c with
      | some j' =>
        rw [Station.initBurstDone_of_advance hf ha]
        rfl
      | none => rw [Station.initBurstDone_of_last hf ha, Station.completeJob_table hf]

end

/-- An INIT burst: its span, and the colours it leaves there. -/
structure InitBurst (s : State) (w : BurstWork) (sp : Span) (ps : List Pixel) : Prop where
  requester : w.requester = .init
  written : w.write s.mem = Memory.writeRun sp.buffer sp.line sp.col ps s.mem
  length : ps.length = sp.count
  done : ∀ (d : Bool) (u : Station), u.requesterDone ⟨w, d⟩ = u.initBurstDone sp.count d
  fills : ∀ c i, w = .initFill sp c → i < sp.count → ps[i]? = some c
  copies : ∀ b i, w = .initCopy b sp → i < sp.count → ps[i]? = some (Memory.readPixel s.mem b sp.line (sp.col + i))

theorem exists_initBurst (s : State) {w : BurstWork} {sp : Span}
    (h : (∃ c, w = .initFill sp c) ∨ ∃ b, w = .initCopy b sp) : ∃ ps, InitBurst s w sp ps := by
  rcases h with ⟨c, rfl⟩ | ⟨b, rfl⟩
  · refine ⟨List.replicate sp.count c, rfl, rfl, List.length_replicate, fun _ _ => rfl, fun c' i same hi => ?_,
      fun _ _ other => absurd other (by simp)⟩
    obtain ⟨-, rfl⟩ := BurstWork.initFill.inj same
    exact List.getElem?_replicate_of_lt hi
  · refine ⟨Memory.readRun s.mem b sp.line sp.col sp.count, rfl, rfl, Memory.readRun_length .., fun _ _ => rfl,
      fun _ _ other => absurd other (by simp), fun b' i same hi => ?_⟩
    obtain ⟨rfl, -⟩ := BurstWork.initCopy.inj same
    exact Memory.readRun_getElem? _ _ _ _ hi

/-- What the end of a burst leaves for its requester to read. -/
theorem Station.endBurst_reads (b : Burst) (s : Station) :
    (s.endBurst b).fie = s.fie ∧ (s.endBurst b).tbi = s.tbi ∧ (s.endBurst b).width = s.width ∧
      (s.endBurst b).height = s.height ∧ (s.endBurst b).ftc.records = s.ftc.records := 
  ⟨rfl, rfl, rfl, rfl, (congrArg Ftc.records (Station.endBurst_ftc b s) :)⟩

/-- Settles O47: the pixels of the span, then the three ways a job goes on. -/
theorem initBurstPreparesTheBuffer : Obligations.InitBurstPreparesTheBuffer := by
  intro s w sp d live wf burst works
  obtain ⟨ps, init⟩ := exists_initBurst s works
  have runs := exec_completion (r := .init) live (.inr (.inr (.inr (.inl ⟨rfl, rfl⟩))))
  obtain ⟨debt, timer⟩ := Station.complete_mar burst
  have mem := Station.complete_mem_of_burst burst
  have rest := Station.complete_rest burst
  have ftc := Station.complete_ftc burst
  have find := Station.complete_find burst
  have ended := Station.endBurst_find ⟨w, d⟩ s.toStation
  have entry := Station.endBurst_readyEntry ⟨w, d⟩ s.toStation
  have bound := Station.endBurst_ftc ⟨w, d⟩ s.toStation
  have first := touches_endBurst s.toStation ⟨w, d⟩
  obtain ⟨fie, tbi, width, height, records⟩ := Station.endBurst_reads ⟨w, d⟩ s.toStation
  simp only [init.requester, init.done, init.written, reduceCtorEq, if_false] at debt timer mem rest ftc find
  generalize s.toStation.endBurst ⟨w, d⟩ = e at rest ftc find ended entry bound first fie tbi width height records
  have table := Station.initBurstDone_table sp.count d e
  refine ⟨_, runs, fun c i fill hi => ?_, fun b i copy hi => ?_, fun a ha => ?_, fun lost => ?_,
    fun j js kept list => ?_, debt, timer, ?_, ?_, ?_, .of_touches ((first.step (touches_initBurstDone _ _ _)
      (l := [.mem, .fie, .ftc, .mar, .tbi]) (by decide) (by decide)).step rest (by decide) (by decide))⟩
  · rw [State.putStation_toStation, mem, Memory.readPixel_writeRun _ _ _ wf (init.fills c i fill hi)]
  · rw [State.putStation_toStation, mem, Memory.readPixel_writeRun _ _ _ wf (init.copies b i copy hi)]
  · rw [State.putStation_toStation, mem, Memory.read_writeRun_ne _ _ _ _ wf (init.length ▸ ha)]
  · subst lost
    rw [State.putStation_toStation, rest.fie (by decide), rest.tbi (by decide), ftc]
    exact ⟨fie, records, tbi⟩
  · subst kept
    have head := fie.trans list
    rw [State.putStation_toStation, rest.fie (by decide), rest.tbi (by decide)]
    refine ⟨fun more => ?_, fun full more => ?_, fun full last => ?_⟩
    · rw [ftc, Station.initBurstDone_of_advance head (if_pos (width ▸ more))]
      exact ⟨rfl, records, tbi⟩
    · rw [ftc, Station.initBurstDone_of_advance head
        ((if_neg (Nat.not_lt.mpr (width ▸ full))).trans (if_pos (height ▸ more)))]
      exact ⟨rfl, records, tbi⟩
    · simp only [find]
      rw [Station.initBurstDone_of_last head (InitJob.advance_none.mpr ⟨width ▸ full, height ▸ last⟩)]
      refine ⟨Station.completeJob_tasks head, Station.completeJob_active head,
        fun r hr => Station.completeJob_record head ((ended _).trans hr), fun follows r drains starts hr opened => ?_⟩
      rintro rfl rfl
      rw [← FrameRecord.initialised_drains]
      obtain ⟨ready, pins, next, others⟩ := Station.completeJob_moves head follows ((ended _).trans hr) opened
      rw [entry, tbi] at ready
      refine ⟨ready, pins, next, fun p copies hp => ?_, fun f other apart => ?_⟩
      · rw [others _ (FrameNo.sub_one_ne _), Station.jobOff_ftc, if_pos copies, Ftc.pinDown_find_self, ended, hp]
        rfl
      · rw [others _ other, Station.jobOff_find_other apart, ended]
  · rw [State.putStation_toStation, ftc, table, bound]
  · rw [State.putStation_toStation, ftc, table, bound]
  · rw [State.putStation_toStation, ftc, table, bound]

end Sys2Proof.Machine
end

section
/-! PROOF. A pulse, as the source arms it and the units take it in turn: the refresh it ends, the frame table,
the membership unit, the refresh it begins (R73, R146 to R150). -/

namespace Sys2Proof.Machine

section
variable {src : PulseSource} {s : Station}

/-! ## A pulse that is due (R146 to R148) -/

theorem Station.pulseDue_eq_false_iff (src : PulseSource) (s : Station) : s.pulseDue src = false ↔
    (src = .syncLost ∧ s.scn.freeRun = true) ∨ (src = .freeRunExpiry ∧ s.scn.freeRunTimer = none) := by
  cases src <;> simp [Station.pulseDue]

/-- What the source does at the scan engine and the status unit before the pulse is taken. -/
def Station.armed (src : PulseSource) (s : Station) : Station :=
  match src with
  | .wsyncEdge => s.onScn fun c => { c with freeRun := false, freeRunTimer := none, syncWatch := 0 }
  | .syncLost => (s.onScn fun c => { c with
      freeRun := true, syncWatch := Config.syncWatchLimit, freeRunTimer := some Config.nominalPeriod }).count .syncLost
  | .freeRunExpiry => s.onScn fun c => { c with freeRunTimer := some Config.nominalPeriod }

theorem Station.pulseFrom_of_due (due : s.pulseDue src = true) : s.pulseFrom src = (s.armed src).pulse := by
  cases src with
  | wsyncEdge => rfl
  | syncLost =>
    have off : ¬s.scn.freeRun = true := by simpa [Station.pulseDue] using due
    exact if_neg off
  | freeRunExpiry => exact if_pos due

theorem Station.pulseFrom_of_not_due (idle : s.pulseDue src = false) : s.pulseFrom src = s := by
  rcases (Station.pulseDue_eq_false_iff src s).mp idle with ⟨rfl, on⟩ | ⟨rfl, stopped⟩
  · exact if_pos on
  · exact if_neg (by simp [stopped])

/-! ## The units in turn (R149) -/

/-- The station as a pulse reaches its frame table. -/
def Station.ended (src : PulseSource) (s : Station) : Station := (s.armed src).endRefresh

/-- The station as a pulse reaches its membership unit. -/
def Station.framed (src : PulseSource) (s : Station) : Station := (s.ended src).ftcPulse

theorem Station.pulseFrom_eq (due : s.pulseDue src = true) :
    s.pulseFrom src = (s.framed src).mbrPulse.beginRefresh := Station.pulseFrom_of_due due

theorem touches_armed (src : PulseSource) (s : Station) : Touches [.scn, .stu] s (s.armed src) := by
  cases src with
  | wsyncEdge => exact (touches_onScn _ s).mono (by decide)
  | syncLost => exact .step (touches_onScn _ s) (touches_count _ _) (by decide) (by decide)
  | freeRunExpiry => exact (touches_onScn _ s).mono (by decide)

theorem touches_ended (src : PulseSource) (s : Station) : Touches [.scn, .stu, .mar] s (s.ended src) :=
  .step (touches_armed src s) (touches_endRefresh _) (by decide) (by decide)

theorem touches_framed (src : PulseSource) (s : Station) : Touches [.scn, .stu, .mar, .ftc] s (s.framed src) :=
  .step (touches_ended src s) (touches_ftcPulse _) (by decide) (by decide)

/-! ## What each unit counts -/

theorem Station.count_pendingReport (c : Counter) (s : Station) :
    (s.count c).stu.pendingReport = s.stu.pendingReport := rfl

theorem Station.count_get_other {c d : Counter} (other : d ≠ c) (s : Station) :
    (s.count c).stu.counters.get d = s.stu.counters.get d := by
  rw [Station.count_get, if_neg other]

theorem Station.armed_counters (src : PulseSource) (s : Station) (c : Counter) :
    (s.armed src).stu.counters.get c = if src = .syncLost ∧ c = .syncLost then saturate (s.stu.counters.get c)
      else s.stu.counters.get c := by
  cases src with
  | wsyncEdge => rfl
  | syncLost => simp [Station.armed, Station.count_get]
  | freeRunExpiry => rfl

theorem Station.ended_counters (src : PulseSource) (s : Station) (c : Counter) :
    (s.ended src).stu.counters.get c = if src = .syncLost ∧ c = .syncLost then saturate (s.stu.counters.get c)
      else s.stu.counters.get c := by
  rw [Station.ended, (touches_endRefresh _).stu (by decide), Station.armed_counters]

theorem Station.ended_pendingReport (src : PulseSource) (s : Station) :
    (s.ended src).stu.pendingReport = s.stu.pendingReport := by
  cases src <;> rfl

/-- The stall watch counts STALL at most. -/
theorem Station.ftcPulse_stu (s : Station) :
    s.ftcPulse.stu = s.stu ∨ s.ftcPulse.stu = (s.count .stall).stu := by
  have same : (if s.mbr.state = .member then (s.onFtc fun t => { t with refresh := t.refresh + 1 }).onFtc Ftc.show_
      else s.onFtc fun t => { t with refresh := t.refresh + 1 }).stu = s.stu := by
    split <;> rfl
  unfold Station.ftcPulse Station.stallPulse
  dsimp only
  split
  · exact .inr (congrArg (fun u : Stu => { u with counters := u.counters.set .stall (saturate (u.counters.get .stall)) })
      same)
  · exact .inl same

/-- The membership unit counts TICK_STARVED at most. -/
theorem Station.mbrPulse_stu (s : Station) :
    s.mbrPulse.stu = s.stu ∨ s.mbrPulse.stu = (s.count .tickStarved).stu := by
  unfold Station.mbrPulse
  split
  · exact .inl ((touches_listenPulse s).stu (by decide))
  · exact .inl ((touches_joinPulse s).stu (by decide))
  · unfold Station.memberPulse
    dsimp only
    rw [(touches_suspectPulse _).stu (by decide), (touches_tickPulse _).stu (by decide)]
    split
    · exact .inr rfl
    · exact .inl rfl
  · exact .inl rfl
  · exact .inl rfl

theorem Station.ftcPulse_counters {c : Counter} (other : c ≠ .stall) (s : Station) :
    s.ftcPulse.stu.counters.get c = s.stu.counters.get c := by
  rcases s.ftcPulse_stu with same | counted
  · rw [same]
  · rw [counted, Station.count_get_other other]

theorem Station.mbrPulse_counters {c : Counter} (other : c ≠ .tickStarved) (s : Station) :
    s.mbrPulse.stu.counters.get c = s.stu.counters.get c := by
  rcases s.mbrPulse_stu with same | counted
  · rw [same]
  · rw [counted, Station.count_get_other other]

theorem Station.ftcPulse_pendingReport (s : Station) : s.ftcPulse.stu.pendingReport = s.stu.pendingReport := by
  rcases s.ftcPulse_stu with same | counted
  · rw [same]
  · rw [counted, Station.count_pendingReport]

theorem Station.mbrPulse_pendingReport (s : Station) : s.mbrPulse.stu.pendingReport = s.stu.pendingReport := by
  rcases s.mbrPulse_stu with same | counted
  · rw [same]
  · rw [counted, Station.count_pendingReport]

/-! ## What the frame table keeps besides its records and buffers -/

/-- The record SHOWN before, once another is shown (R68). -/
def Ftc.frontLeft (t : Ftc) : Ftc :=
  match t.records.find? (fun r => r.state == .shown) with
  | some r => if 0 < r.pins then t.setState r.frame .retiring else t.dropRecord r.frame
  | none => t

/-- The held image, once a record is shown (R68). -/
def Ftc.heldLeft (t : Ftc) : Ftc :=
  match t.heldImage with
  | some b => t.release b
  | none => t

theorem Ftc.replaceFront_eq_left (t : Ftc) : t.replaceFront = t.frontLeft.heldLeft := rfl

theorem Ftc.frontLeft_eq (t : Ftc) :
    t.frontLeft = { t with records := t.frontLeft.records, buffers := t.frontLeft.buffers } := by
  unfold Ftc.frontLeft
  split
  · split
    · rfl
    · exact Ftc.dropRecord_eq _ t
  · rfl

theorem Ftc.heldLeft_eq (t : Ftc) : t.heldLeft = { t with buffers := t.heldLeft.buffers } := by
  unfold Ftc.heldLeft
  split <;> rfl

theorem Ftc.replaceFront_eq (t : Ftc) :
    t.replaceFront = { t with records := t.replaceFront.records, buffers := t.replaceFront.buffers } := by
  rw [Ftc.replaceFront_eq_left, Ftc.heldLeft_eq, Ftc.frontLeft_eq]

theorem Ftc.show_eq (t : Ftc) : t.show_ = { t with records := t.show_.records, buffers := t.show_.buffers } := by
  unfold Ftc.show_
  split
  · split
    · rw [Ftc.replaceFront_eq]
      rfl
    · rfl
  · rfl

theorem Station.stallPulse_ftc (s : Station) :
    s.stallPulse.ftc = { s.ftc with records := s.stallPulse.ftc.records } := by
  unfold Station.stallPulse
  dsimp only
  split <;> rfl

theorem Station.ftcPulse_ftc (s : Station) : s.ftcPulse.ftc = { s.ftc with
    refresh := s.ftc.refresh + 1, records := s.ftcPulse.ftc.records, buffers := s.ftcPulse.ftc.buffers } := by
  unfold Station.ftcPulse
  dsimp only
  rw [Station.stallPulse_ftc]
  split
  · rw [Station.onFtc_ftc, Ftc.show_eq]
    rfl
  · rfl

end

end Sys2Proof.Machine
end

section
/-! PROOF. A pulse begins a refresh (R147 to R150). -/

namespace Sys2Proof.Machine

/-- A pulse command that is due. -/
theorem exec_pulse {src : PulseSource} {s : State} (live : s.resetAsserted = false) (due : s.pulseDue src = true) :
    exec (pulseCommand src) s = .next (s.putStation (s.toStation.framed src).mbrPulse.beginRefresh) := by
  rw [exec_pulseCommand src live, Station.pulseFrom_eq due]

theorem exec_pulse_not_due {src : PulseSource} {s : State} (live : s.resetAsserted = false)
    (idle : s.pulseDue src = false) : exec (pulseCommand src) s = .next s := by
  rw [exec_pulseCommand src live, Station.pulseFrom_of_not_due idle]
  rfl

section
variable {src : PulseSource} {s : Station}

theorem touches_pulsed (src : PulseSource) (s : Station) :
    Touches [.scn, .ftc, .mbr, .tbi, .mar, .stu] s (s.framed src).mbrPulse.beginRefresh :=
  (((touches_framed src s).mono (by decide)).also (touches_mbrPulse _) (by decide)).also
    (touches_beginRefresh _) (by decide)

theorem Station.pulsed_stu (src : PulseSource) (s : Station) :
    (s.framed src).mbrPulse.beginRefresh.stu = (s.framed src).mbrPulse.stu :=
  (touches_beginRefresh _).stu (by decide)

theorem Station.pulsed_ftc (src : PulseSource) (s : Station) :
    (s.framed src).mbrPulse.beginRefresh.ftc = (s.framed src).ftc :=
  ((touches_beginRefresh _).ftc (by decide)).trans ((touches_mbrPulse _).ftc (by decide))

theorem Station.framed_ftc (src : PulseSource) (s : Station) : (s.framed src).ftc = { s.ftc with
    refresh := s.ftc.refresh + 1, records := (s.framed src).ftc.records, buffers := (s.framed src).ftc.buffers } := by
  refine (Station.ftcPulse_ftc _).trans ?_
  rw [(touches_ended src s).ftc (by decide)]
  rfl

theorem Station.pulsed_mar (src : PulseSource) (s : Station) :
    (s.framed src).mbrPulse.beginRefresh.mar = (s.ended src).mar :=
  (((touches_beginRefresh _).mar (by decide)).trans ((touches_mbrPulse _).mar (by decide))).trans
    ((touches_ftcPulse _).mar (by decide))

theorem Station.membersPulsed_scn (src : PulseSource) (s : Station) :
    (s.framed src).mbrPulse.scn = (s.ended src).scn :=
  ((touches_mbrPulse _).scn (by decide)).trans ((touches_ftcPulse _).scn (by decide))

theorem Station.beginRefresh_scn (s : Station) : s.beginRefresh.scn = { s.scn with
    front := s.ftc.frontBuffer, fetch := some ⟨0, 0⟩, output := ⟨0, 0⟩, phase := .blanking, panel := .blanking } := rfl

theorem Burst.endRefresh_eq (b : Burst) :
    b.endRefresh = { b with dropped := b.dropped || b.work.requester == .scan } := by
  obtain ⟨w, d⟩ := b
  cases w <;> simp [Burst.endRefresh, BurstWork.requester]

theorem Station.ended_mar (src : PulseSource) (s : Station) : (s.ended src).mar =
    { s.mar with burst := s.mar.burst.map fun b => { b with dropped := b.dropped || b.work.requester == .scan } } := by
  have unfolded : (s.ended src).mar = { s.mar with burst := s.mar.burst.map Burst.endRefresh } := by
    cases src <;> rfl
  rw [unfolded, funext Burst.endRefresh_eq]

theorem Station.pulsed_counters (src : PulseSource) (s : Station) {c : Counter} (stall : c ≠ .stall)
    (starved : c ≠ .tickStarved) :
    (s.framed src).mbrPulse.beginRefresh.stu.counters.get c =
      if src = .syncLost ∧ c = .syncLost then saturate (s.stu.counters.get c) else s.stu.counters.get c := by
  rw [Station.pulsed_stu, Station.mbrPulse_counters starved, Station.framed, Station.ftcPulse_counters stall,
    Station.ended_counters]

theorem Station.pulsed_pendingReport (src : PulseSource) (s : Station) :
    (s.framed src).mbrPulse.beginRefresh.stu.pendingReport = s.stu.pendingReport := by
  rw [Station.pulsed_stu, Station.mbrPulse_pendingReport, Station.framed, Station.ftcPulse_pendingReport,
    Station.ended_pendingReport]

end

/-- Settles O49: a pulse that cannot come, and one that is taken. -/
theorem pulseBeginsARefresh : Obligations.PulseBeginsARefresh := by
  intro src s live
  rw [← Station.pulseDue_eq_false_iff src s.toStation, Bool.not_eq_false]
  refine ⟨exec_pulse_not_due live, fun due => ?_⟩
  have scn : (s.toStation.framed src).mbrPulse.beginRefresh.scn = { (s.toStation.ended src).scn with
      front := (s.toStation.framed src).mbrPulse.ftc.frontBuffer, fetch := some ⟨0, 0⟩, output := ⟨0, 0⟩
      phase := .blanking, panel := .blanking } := by
    rw [Station.beginRefresh_scn, Station.membersPulsed_scn]
  have table := (Station.pulsed_ftc src s.toStation).trans (Station.framed_ftc src s.toStation)
  refine ⟨_, exec_pulse live due, ?_, ?_, ?_, ?_, ?_, ?_, ?_, ?_, ?_, rfl, ?_,
    (Station.pulsed_mar _ _).trans (Station.ended_mar _ _), ?_, fun c syncLost stall starved => ?_,
    Station.pulsed_pendingReport _ _, ?_, ?_, .of_touches (touches_pulsed src s.toStation)⟩
  · rw [State.putStation_toStation, scn]
    cases src <;> rfl
  · rw [State.putStation_toStation, scn]
    cases src <;> rfl
  · rw [State.putStation_toStation, scn]
    cases src <;> rfl
  · rw [State.putStation_toStation, scn]
  · rw [State.putStation_toStation, scn]
  · rw [State.putStation_toStation, scn]
    cases src <;> rfl
  · rw [State.putStation_toStation, scn]
  · rw [State.putStation_toStation, scn]
  · rw [State.putStation_toStation, scn]
    cases src <;> rfl
  · rw [State.putStation_toStation, table]
  · rw [State.putStation_toStation, Station.pulsed_counters src _ (by decide) (by decide)]
    simp
  · rw [State.putStation_toStation, Station.pulsed_counters src _ stall starved]
    simp [syncLost]
  · rw [State.putStation_toStation, table]
  · rw [State.putStation_toStation, table]

end Sys2Proof.Machine
end

section
/-! PROOF. The frame table at a pulse: the show, what becomes of the front before it, and the stall watch
(R68, R83, R87, R88). -/

namespace Sys2Proof.Machine

section
variable {t : Ftc} {r o : FrameRecord} {b : Buf}

/-! ## The front before (R68) -/

theorem Ftc.frontLeft_of_none (none : ∀ x ∈ t.records, x.state ≠ .shown) : t.frontLeft = t := by
  have missing : t.records.find? (fun r => r.state == .shown) = Option.none := by simpa using none
  simp only [Ftc.frontLeft, missing]

theorem Ftc.frontLeft_of_pinned (shown : (t.records.find? fun x => x.state == .shown) = some o) (pinned : 0 < o.pins) :
    t.frontLeft = t.setState o.frame .retiring := by
  simp only [Ftc.frontLeft, shown, pinned, if_true]

theorem Ftc.frontLeft_of_unpinned (shown : (t.records.find? fun x => x.state == .shown) = some o) (free : o.pins = 0) :
    t.frontLeft = t.dropRecord o.frame := by
  simp only [Ftc.frontLeft, shown, free, Nat.lt_irrefl, if_false]

/-- The buffer that the front before gives up. -/
def Ftc.frontDrops (t : Ftc) : Option Buf :=
  (t.records.find? fun x => x.state == .shown).bind fun o =>
    if 0 < o.pins then none else (t.find o.frame).map fun r => r.buffer

theorem Ftc.release_get (b c : Buf) (t : Ftc) :
    (t.release b).buffers.get c = if b = c then (t.buffers.get c).released else t.buffers.get c := by
  simp only [Ftc.release, Ftc.onBuffer, Buffers.get_set]
  by_cases same : b = c
  · subst same
    simp only [if_true]
    exact BufDesc.release_eq _
  · rw [if_neg same, if_neg (Ne.symm same)]

theorem Ftc.dropRecord_get (n : FrameNo) (b : Buf) (t : Ftc) : (t.dropRecord n).buffers.get b =
    if (t.find n).map (fun r => r.buffer) = some b then (t.buffers.get b).released else t.buffers.get b := by
  cases held : t.find n with
  | none => simp [Ftc.dropRecord, held]
  | some r =>
    simp only [Ftc.dropRecord, held, Option.map_some, Option.some.injEq]
    exact t.release_get r.buffer b

theorem Ftc.frontLeft_get (b : Buf) (t : Ftc) : t.frontLeft.buffers.get b =
    if t.frontDrops = some b then (t.buffers.get b).released else t.buffers.get b := by
  cases shown : t.records.find? (fun x => x.state == .shown) with
  | none => simp [Ftc.frontLeft, Ftc.frontDrops, shown]
  | some o =>
    by_cases pinned : 0 < o.pins
    · rw [Ftc.frontLeft_of_pinned shown pinned]
      simp [Ftc.frontDrops, shown, pinned, Ftc.setState, Ftc.onRecord]
    · rw [Ftc.frontLeft_of_unpinned shown (by omega), Ftc.dropRecord_get]
      simp [Ftc.frontDrops, shown, pinned]

/-! ## The held image (R68, R70) -/

theorem Ftc.heldImage_state (held : t.heldImage = some b) : (t.buffers.get b).state = .heldImage :=
  beq_iff_eq.mp (List.find?_some held :)

theorem Ftc.heldImage_of_only (held : (t.buffers.get b).state = .heldImage)
    (only : ∀ c, (t.buffers.get c).state = .heldImage → c = b) : t.heldImage = some b := by
  have some_ : t.heldImage.isSome = true :=
    List.find?_isSome.mpr ⟨b, by cases b <;> decide, beq_iff_eq.mpr held⟩
  obtain ⟨c, hc⟩ := Option.isSome_iff_exists.mp some_
  rw [hc, only c (Ftc.heldImage_state hc)]

theorem Ftc.heldLeft_get (b : Buf) (t : Ftc) : t.heldLeft.buffers.get b =
    if t.heldImage = some b then (t.buffers.get b).released else t.buffers.get b := by
  cases held : t.heldImage with
  | none => simp [Ftc.heldLeft, held]
  | some c =>
    simp only [Ftc.heldLeft, held, Option.some.injEq]
    exact t.release_get c b

theorem BufDesc.released_not_held (d : BufDesc) : d.released.state ≠ .heldImage := by
  simp only [BufDesc.released]
  split <;> decide

/-- A buffer that the front before leaves without a held image is left so. -/
theorem Ftc.replaceFront_get_of_not_held (other : (t.frontLeft.buffers.get b).state ≠ .heldImage) :
    t.replaceFront.buffers.get b = t.frontLeft.buffers.get b := by
  rw [Ftc.replaceFront_eq_left, Ftc.heldLeft_get, if_neg fun held => other (Ftc.heldImage_state held)]

theorem Ftc.replaceFront_get_of_drops (drops : t.frontDrops = some b) :
    t.replaceFront.buffers.get b = (t.buffers.get b).released := by
  have left : t.frontLeft.buffers.get b = (t.buffers.get b).released := by rw [Ftc.frontLeft_get, if_pos drops]
  rw [Ftc.replaceFront_get_of_not_held (left ▸ BufDesc.released_not_held _), left]

theorem Ftc.replaceFront_get_of_kept (keeps : t.frontDrops ≠ some b) (other : (t.buffers.get b).state ≠ .heldImage) :
    t.replaceFront.buffers.get b = t.buffers.get b := by
  have left : t.frontLeft.buffers.get b = t.buffers.get b := by rw [Ftc.frontLeft_get, if_neg keeps]
  rw [Ftc.replaceFront_get_of_not_held (left ▸ other), left]

/-- The held image, the only one, is released. -/
theorem Ftc.replaceFront_get_of_held (keeps : t.frontDrops ≠ some b) (held : (t.buffers.get b).state = .heldImage)
    (only : ∀ c, (t.buffers.get c).state = .heldImage → c = b) :
    t.replaceFront.buffers.get b = (t.buffers.get b).released := by
  have left : t.frontLeft.buffers.get b = t.buffers.get b := by rw [Ftc.frontLeft_get, if_neg keeps]
  have still : t.frontLeft.heldImage = some b := by
    refine Ftc.heldImage_of_only (left ▸ held) fun c hc => only c ?_
    rw [Ftc.frontLeft_get] at hc
    split at hc
    · exact absurd hc (BufDesc.released_not_held _)
    · exact hc
  rw [Ftc.replaceFront_eq_left, Ftc.heldLeft_get, if_pos still, left]

theorem Ftc.replaceFront_records (t : Ftc) : t.replaceFront.records = t.frontLeft.records :=
  (congrArg Ftc.records t.frontLeft.heldLeft_eq :)

theorem Ftc.frontDrops_of_pinned (shown : (t.records.find? fun x => x.state == .shown) = some o) (pinned : 0 < o.pins) :
    t.frontDrops = none := by
  simp only [Ftc.frontDrops, shown, Option.bind_some, if_pos pinned]

theorem Ftc.frontDrops_of_held (shown : (t.records.find? fun x => x.state == .shown) = some o) (free : ¬0 < o.pins)
    (held : t.find o.frame = some o) : t.frontDrops = some o.buffer := by
  simp only [Ftc.frontDrops, shown, Option.bind_some, if_neg free, held, Option.map_some]

theorem Ftc.frontDrops_ne
    (kept : ∀ o, (t.records.find? fun x => x.state == .shown) = some o →
      0 < o.pins ∨ (t.find o.frame = some o ∧ o.buffer ≠ b)) : t.frontDrops ≠ some b := by
  cases shown : t.records.find? fun x => x.state == .shown with
  | none => simp [Ftc.frontDrops, shown]
  | some o =>
    by_cases pinned : 0 < o.pins
    · simp [Ftc.frontDrops_of_pinned shown pinned]
    · obtain ⟨held, other⟩ := (kept o shown).resolve_left pinned
      rw [Ftc.frontDrops_of_held shown pinned held]
      exact fun same => other (Option.some.inj same)

/-- A front that gives up a buffer has a record with it. -/
theorem Ftc.mem_of_frontDrops (drops : t.frontDrops = some b) : ∃ x ∈ t.records, x.buffer = b := by
  obtain ⟨o, -, drops⟩ := Option.bind_eq_some_iff.mp drops
  split at drops
  · exact absurd drops (by simp)
  · obtain ⟨r, hr, rfl⟩ := Option.map_eq_some_iff.mp drops
    exact ⟨r, Ftc.mem_of_find hr, rfl⟩

/-! ## The show (R83) -/

theorem Ftc.show_of_due (committed : (t.records.find? fun x => x.state == .committed) = some r)
    (due : r.showRefresh = some t.refresh) :
    t.show_ = t.replaceFront.onRecord r.frame fun x => { x with state := .shown, showRefresh := none } := by
  have oldest : t.oldest (· == .committed) = some r := committed
  simp only [Ftc.show_, oldest, due, if_true]

theorem Ftc.show_of_none
    (none : ∀ r, (t.records.find? fun x => x.state == .committed) = some r → r.showRefresh ≠ some t.refresh) :
    t.show_ = t := by
  cases committed : t.oldest (· == .committed) with
  | none => simp only [Ftc.show_, committed]
  | some r => simp only [Ftc.show_, committed, if_neg (none r committed)]

theorem Ftc.onRecord_records (n : FrameNo) (f : FrameRecord → FrameRecord) (t : Ftc) :
    (t.onRecord n f).records = t.records.map fun x => if x.frame = n then f x else x :=
  congrArg Ftc.records (Ftc.onRecord_eq n f t)

theorem Ftc.show_records_of_due (committed : (t.records.find? fun x => x.state == .committed) = some r)
    (due : r.showRefresh = some t.refresh) :
    t.show_.records = t.frontLeft.records.map (FrameRecord.shownAs r.frame) := by
  rw [Ftc.show_of_due committed due, Ftc.onRecord_records, Ftc.replaceFront_records]
  rfl

theorem Ftc.show_get_of_due (committed : (t.records.find? fun x => x.state == .committed) = some r)
    (due : r.showRefresh = some t.refresh) (b : Buf) : t.show_.buffers.get b = t.replaceFront.buffers.get b := by
  rw [Ftc.show_of_due committed due]
  rfl

end

/-! ## The stall watch (R87, R88) -/

section
variable {s : Station} {r : FrameRecord}

theorem FrameRecord.stallPulse_eq (limit : Nat) : FrameRecord.stallPulse limit = FrameRecord.watched limit := rfl

theorem Station.stallPulse_of_stalled
    (oldest : ((s.ftc.records.map (FrameRecord.watched s.stallLimit)).find? fun x => x.state.isUncommitted) = some r)
    (full : r.stallCount = s.stallLimit) (unflagged : r.stalled = false) :
    s.stallPulse.ftc.records =
        (s.ftc.records.map (FrameRecord.watched s.stallLimit)).map (FrameRecord.flaggedAs r.frame) ∧
      s.stallPulse.stu = (s.count .stall).stu := by
  have stalls : Ftc.stallsAt s.stallLimit (s.onFtc fun t =>
      { t with records := t.records.map (FrameRecord.stallPulse s.stallLimit) }).ftc = some r.frame := by
    simp only [Ftc.stallsAt, Ftc.oldest, FrameRecord.stallPulse_eq, Station.onFtc_ftc, oldest, full, unflagged,
      and_self, if_true]
  unfold Station.stallPulse
  simp only [stalls]
  exact ⟨Ftc.onRecord_records _ _ _, rfl⟩

theorem Station.stallPulse_of_none
    (none : ∀ r, ((s.ftc.records.map (FrameRecord.watched s.stallLimit)).find? fun x => x.state.isUncommitted) = some r →
      r.stallCount ≠ s.stallLimit ∨ r.stalled = true) :
    s.stallPulse = s.onFtc fun t => { t with records := t.records.map (FrameRecord.watched s.stallLimit) } := by
  have stays : Ftc.stallsAt s.stallLimit (s.onFtc fun t =>
      { t with records := t.records.map (FrameRecord.stallPulse s.stallLimit) }).ftc = Option.none := by
    simp only [Ftc.stallsAt, Ftc.oldest, FrameRecord.stallPulse_eq, Station.onFtc_ftc]
    cases oldest : (s.ftc.records.map (FrameRecord.watched s.stallLimit)).find? fun x => x.state.isUncommitted with
    | none => rfl
    | some r =>
      refine if_neg fun ⟨full, unflagged⟩ => ?_
      rcases none r oldest with other | flagged
      · exact other full
      · exact absurd (unflagged.symm.trans flagged) (by decide)
  unfold Station.stallPulse
  simp only [stays]
  rfl

end

end Sys2Proof.Machine
end

section
/-! PROOF. A pulse at the frame table: the committed frame is shown, and the stalls are watched (R68, R83, R87). -/

namespace Sys2Proof.Machine

section
variable {src : PulseSource} {s : Station}

/-- The station once its refresh number has moved on (R73). -/
def Station.advanced (s : Station) : Station := s.onFtc fun t => { t with refresh := t.refresh + 1 }

/-- The station once a committed frame that is due is shown (R83). -/
def Station.showing (s : Station) : Station :=
  if s.mbr.state = .member then s.advanced.onFtc Ftc.show_ else s.advanced

theorem Station.framed_eq (src : PulseSource) (s : Station) :
    s.framed src = (s.ended src).showing.stallPulse := rfl

theorem touches_showing (s : Station) : Touches [.ftc] s s.showing := by
  unfold Station.showing
  exact .ite (.step (touches_onFtc _ s) (touches_onFtc _ _) (by decide) (by decide)) (touches_onFtc _ s)

theorem Station.ended_showing_ftc (src : PulseSource) (s : Station) : (s.ended src).showing.ftc =
    if s.mbr.state = .member then s.advanced.ftc.show_ else s.advanced.ftc := by
  have table : (s.ended src).advanced.ftc = s.advanced.ftc := by
    rw [Station.advanced, Station.onFtc_ftc, (touches_ended src s).ftc (by decide), Station.advanced, Station.onFtc_ftc]
  unfold Station.showing
  rw [(touches_ended src s).mbr (by decide)]
  split
  · exact congrArg Ftc.show_ table
  · exact table

theorem Station.showing_stallLimit (src : PulseSource) (s : Station) : (s.ended src).showing.stallLimit = s.stallLimit := by
  unfold Station.stallLimit
  rw [(touches_showing _).straps (by decide), (touches_ended src s).straps (by decide)]

theorem stallLimit_of_code {code : BitVec 2} {limit : Nat} (h : [60, 120, 240, 480][code.toNat]? = some limit) :
    stallLimit code = limit := by
  have listed : ∀ c : BitVec 2, [60, 120, 240, 480][c.toNat]? = some (stallLimit c) := by decide
  exact Option.some.inj ((listed code).symm.trans h)

theorem Station.framed_stall (src : PulseSource) (s : Station) :
    ((s.ended src).showing.count .stall).stu.counters.get .stall = saturate (s.stu.counters.get .stall) ∧
      (s.ended src).showing.stu.counters.get .stall = s.stu.counters.get .stall := by
  have same : (s.ended src).showing.stu.counters.get .stall = s.stu.counters.get .stall := by
    rw [(touches_showing _).stu (by decide), Station.ended_counters]
    simp
  exact ⟨by rw [Station.count_get, if_pos rfl, same], same⟩

end

/-- Settles O50: the show, then the stall watch over the records it leaves. -/
theorem pulseShowsTheCommittedFrameAndWatchesStalls : Obligations.PulseShowsTheCommittedFrameAndWatchesStalls := by
  intro src s limit live due code
  have code := stallLimit_of_code code
  have full : (s.toStation.ended src).showing.stallLimit = limit :=
    (Station.showing_stallLimit src s.toStation).trans code
  have table := Station.pulsed_ftc src s.toStation
  have buffers : (s.toStation.framed src).mbrPulse.beginRefresh.ftc.buffers =
      (s.toStation.ended src).showing.ftc.buffers := by
    rw [table, Station.framed_eq, Station.stallPulse_ftc]
  have count : (s.toStation.framed src).mbrPulse.beginRefresh.stu.counters.get .stall =
      (s.toStation.ended src).showing.stallPulse.stu.counters.get .stall := by
    rw [Station.pulsed_stu, Station.mbrPulse_counters (by decide), Station.framed_eq]
  obtain ⟨counted, uncounted⟩ := Station.framed_stall src s.toStation
  refine ⟨_, (s.toStation.ended src).showing.ftc.records, _, exec_pulse live due, fun r member committed show_ => ?_,
    fun none => ?_, rfl, fun r oldest stalls unflagged => ?_, fun none => ?_, ?_, Station.pulsed_pendingReport _ _⟩
  · have shows : (s.toStation.ended src).showing.ftc = s.advanced.ftc.show_ := by
      rw [Station.ended_showing_ftc, if_pos member]
    have records := Ftc.show_records_of_due (t := s.advanced.ftc) committed show_
    have get := Ftc.show_get_of_due (t := s.advanced.ftc) committed show_
    rw [State.putStation_toStation, buffers, shows, records]
    simp only [get]
    refine ⟨fun none => ?_, fun o front => ⟨fun pinned => ?_, fun free => ?_, fun free held => ?_, fun pinned bound => ?_⟩,
      fun b other kept => ?_, fun b held only apart => ?_⟩
    · rw [Ftc.frontLeft_of_none (t := s.advanced.ftc) none]
      rfl
    · rw [Ftc.frontLeft_of_pinned (t := s.advanced.ftc) front pinned, Ftc.setState, Ftc.onRecord_records]
      rfl
    · rw [Ftc.frontLeft_of_unpinned (t := s.advanced.ftc) front free, Ftc.dropRecord_records]
      rfl
    · exact Ftc.replaceFront_get_of_drops
        (Ftc.frontDrops_of_held (t := s.advanced.ftc) front (Nat.not_lt.mpr (Nat.le_of_eq free)) held)
    · refine Ftc.replaceFront_get_of_kept (t := s.advanced.ftc) ?_ fun other => ?_
      · rw [Ftc.frontDrops_of_pinned (t := s.advanced.ftc) front pinned]
        exact fun none => absurd none (by simp)
      · exact absurd (bound.symm.trans other) (by decide)
    · exact Ftc.replaceFront_get_of_kept (t := s.advanced.ftc) (Ftc.frontDrops_ne kept) other
    · refine Ftc.replaceFront_get_of_held (t := s.advanced.ftc) (fun drops => ?_) held only
      obtain ⟨x, hx, same⟩ := Ftc.mem_of_frontDrops drops
      exact apart x hx same
  · have same : (s.toStation.ended src).showing.ftc = s.advanced.ftc := by
      rw [Station.ended_showing_ftc]
      by_cases member : s.mbr.state = .member
      · rw [if_pos member, Ftc.show_of_none (none.resolve_left (not_not_intro member))]
      · rw [if_neg member]
    rw [State.putStation_toStation, buffers, same]
    exact ⟨rfl, rfl⟩
  · subst full
    obtain ⟨records, stu⟩ := Station.stallPulse_of_stalled oldest stalls unflagged
    rw [State.putStation_toStation, count, table, stu, counted]
    exact ⟨records, rfl⟩
  · subst full
    have still := Station.stallPulse_of_none none
    rw [State.putStation_toStation, count, table, Station.framed_eq, still]
    exact ⟨rfl, uncounted⟩
  · rw [State.putStation_toStation, table, Station.framed_ftc]

end Sys2Proof.Machine
end

section
/-! PROOF. The membership unit at a pulse of a MEMBER: the duty holder, the watches, the TICK and the SUSPECT
(R34, R35, R39, R40, R41). -/

namespace Sys2Proof.Machine

theorem Touches.number {l : List Block} {s t : Station} (h : Touches l s t) (hl : Block.straps ∉ l) :
    t.number = s.number := congrArg (fun p : Straps => p.station.toNat) (h.straps hl)

/-! ## Entries of the roster -/

theorem Mbr.isMember_iff (m : Mbr) (x : Nat) :
    m.isMember x = true ↔ ∃ e, m.roster[x]? = some e ∧ e.member = true := by
  rw [Mbr.isMember, Mbr.entry, List.getD_eq_getElem?_getD]
  cases m.roster[x]? with
  | none => simp [RosterEntry.absent]
  | some e => simp

theorem Mbr.entry_of_getElem? {m : Mbr} {x : Nat} {e : RosterEntry} (h : m.roster[x]? = some e) : m.entry x = e := by
  rw [Mbr.entry, List.getD_eq_getElem?_getD, h, Option.getD_some]

/-- The duty holder is the lowest member (R34). -/
theorem Mbr.lowestMember_eq_some_iff (m : Mbr) (x : Nat) :
    m.lowestMember = some x ↔ m.isMember x = true ∧ ∀ y < x, m.isMember y = false := by
  have outside (y : Nat) : m.isMember y = false ↔ ∀ e, m.roster[y]? = some e → e.member = false := by
    rw [← Bool.not_eq_true, Mbr.isMember_iff]
    simp
  rw [Mbr.lowestMember, List.findIdx?_eq_some_iff_getElem, Mbr.isMember_iff]
  constructor
  · rintro ⟨inside, member, lower⟩
    refine ⟨⟨_, List.getElem?_eq_getElem inside, member⟩, fun y hy => (outside y).mpr fun e he => ?_⟩
    rw [List.getElem?_eq_getElem (Nat.lt_trans hy inside)] at he
    exact Option.some.inj he ▸ Bool.of_not_eq_true (lower y hy)
  · rintro ⟨⟨e, he, member⟩, lower⟩
    obtain ⟨inside, rfl⟩ := List.getElem?_eq_some_iff.mp he
    refine ⟨inside, member, fun y hy => ?_⟩
    rw [(outside y).mp (lower y hy) _ (List.getElem?_eq_getElem (Nat.lt_trans hy inside))]
    exact Bool.false_ne_true

/-! ## Whom a member suspects (R41) -/

/-- An entry of another member with a watch at 24 or above. -/
def RosterEntry.Late (own x : Nat) (e : RosterEntry) : Prop := e.member = true ∧ x ≠ own ∧ 24 ≤ e.watch

theorem Station.overdueAt_iff (s : Station) (x : Nat) :
    s.overdueAt x ↔ ∃ e, s.mbr.roster[x]? = some e ∧ e.Late s.number x := by
  rw [Station.overdueAt, Mbr.isMember_iff]
  constructor
  · rintro ⟨other, ⟨e, he, member⟩, late⟩
    exact ⟨e, he, member, other, Mbr.entry_of_getElem? he ▸ late⟩
  · rintro ⟨e, he, member, other, late⟩
    exact ⟨other, ⟨e, he, member⟩, (Mbr.entry_of_getElem? he).symm ▸ late⟩

theorem Station.overdueAt_congr {s t : Station} (number : t.number = s.number) (roster : t.mbr.roster = s.mbr.roster)
    (x : Nat) : t.overdueAt x ↔ s.overdueAt x := by
  rw [Station.overdueAt_iff, Station.overdueAt_iff, number, roster]

theorem overdue_of_none {own i : Nat} {es : List RosterEntry}
    (none : ∀ (k : Nat) (e : RosterEntry), es[k]? = some e → ¬e.Late own (i + k)) : overdue own i es = Option.none := by
  induction es generalizing i with
  | nil => rfl
  | cons e es ih =>
    refine (if_neg (none 0 e rfl)).trans (ih fun k e' he => by
      have later := none (k + 1) e' he
      rwa [Nat.add_comm k 1, ← Nat.add_assoc] at later)

theorem overdue_of_first {own i k : Nat} {es : List RosterEntry} {e : RosterEntry} (he : es[k]? = some e)
    (late : e.Late own (i + k)) (first : ∀ j < k, ∀ e', es[j]? = some e' → ¬e'.Late own (i + j)) :
    overdue own i es = some (i + k) := by
  induction es generalizing i k with
  | nil => exact absurd he (by simp)
  | cons d es ih =>
    cases k with
    | zero =>
      obtain rfl := Option.some.inj he
      exact if_pos late
    | succ k =>
      have shift (n : Nat) : i + (n + 1) = i + 1 + n := by omega
      rw [shift]
      refine (if_neg (first 0 (Nat.succ_pos k) d rfl)).trans (ih he (shift k ▸ late) fun j hj e' he' => ?_)
      exact shift j ▸ first (j + 1) (Nat.succ_lt_succ hj) e' he'

theorem Station.overdue_of_lowest {s : Station} {x : Nat} (late : s.overdueAt x) (lowest : ∀ y < x, ¬s.overdueAt y) :
    overdue s.number 0 s.mbr.roster = some x := by
  obtain ⟨e, he, late⟩ := (s.overdueAt_iff x).mp late
  have first := overdue_of_first (own := s.number) (i := 0) (k := x) he ((Nat.zero_add x).symm ▸ late)
    fun j hj e' he' late' => lowest j hj ((s.overdueAt_iff j).mpr ⟨e', he', Nat.zero_add j ▸ late'⟩)
  rwa [Nat.zero_add] at first

theorem Station.overdue_of_not {s : Station} (none : ∀ x, ¬s.overdueAt x) :
    overdue s.number 0 s.mbr.roster = Option.none :=
  overdue_of_none fun k e he late => none k ((s.overdueAt_iff k).mpr ⟨e, he, Nat.zero_add k ▸ late⟩)

theorem Mbr.choice_of_tick {m : Mbr} {own x : Nat} (holder : m.dutyHolder = some x) (other : x ≠ own)
    (late : m.tickWatch = 3) : m.choice own = some (x, .tickWatch) := by
  simp only [Mbr.choice, holder]
  exact if_pos ⟨other, late⟩

theorem Mbr.choice_of_beacons {m : Mbr} {own : Nat}
    (ticks : m.dutyHolder = some own ∨ m.dutyHolder = none ∨ m.tickWatch ≠ 3) :
    m.choice own = (overdue own 0 m.roster).map fun x => (x, .beaconWatch x) := by
  cases holder : m.dutyHolder with
  | none => simp only [Mbr.choice, holder]
  | some x =>
    simp only [Mbr.choice, holder]
    refine if_neg fun ⟨other, late⟩ => ?_
    rcases ticks with same | none | early
    · exact other (Option.some.inj (holder.symm.trans same))
    · exact absurd (holder.symm.trans none) (by simp)
    · exact early late

/-! ## The SUSPECT queued (R41) -/

section
variable {s : Station}

theorem Tbi.holds_iff (k : Kind) (t : Tbi) : t.holds k = true ↔ ∃ d ∈ t.queue, d.msg.kind = k := by
  simp [Tbi.holds, TxEntry.isKind]

theorem Station.suspectPulse_of_held (held : s.tbi.holds .suspect = true) : s.suspectPulse = s := if_pos held

theorem Station.suspectPulse_of_choice {x : Nat} {origin : SuspectOrigin} (free : s.tbi.holds .suspect = false)
    (choice : s.mbr.choice s.number = some (x, origin)) : s.suspectPulse =
      (s.onTbi (Tbi.push (.suspect x))).onMbr fun m => { m with suspectOrigin := some origin } := by
  simp only [Station.suspectPulse, free, choice, Bool.false_eq_true, if_false]

theorem Station.suspectPulse_of_none (choice : s.mbr.choice s.number = none) : s.suspectPulse = s := by
  simp only [Station.suspectPulse, choice, ite_self]

/-- What the suspecting moves: one entry at most, and the mark of the watch that raised it. -/
theorem Station.suspectPulse_moves (s : Station) : ∃ (suspected : List TxEntry) (origin : Option SuspectOrigin),
    s.suspectPulse.tbi = { s.tbi with queue := s.tbi.queue ++ suspected } ∧
    s.suspectPulse.mbr = { s.mbr with suspectOrigin := origin } ∧
    ((∃ d ∈ s.tbi.queue, d.msg.kind = .suspect) → suspected = [] ∧ origin = s.mbr.suspectOrigin) ∧
    ((∀ d ∈ s.tbi.queue, d.msg.kind ≠ .suspect) →
      (∀ x, s.mbr.dutyHolder = some x → x ≠ s.number → s.mbr.tickWatch = 3 →
        suspected = [⟨.suspect x, .waiting⟩] ∧ origin = some .tickWatch) ∧
      (s.mbr.dutyHolder = some s.number ∨ s.mbr.dutyHolder = none ∨ s.mbr.tickWatch ≠ 3 →
        (∀ x, s.overdueAt x → (∀ y < x, ¬s.overdueAt y) →
          suspected = [⟨.suspect x, .waiting⟩] ∧ origin = some (.beaconWatch x)) ∧
        ((∀ x, ¬s.overdueAt x) → suspected = [] ∧ origin = s.mbr.suspectOrigin))) := by
  have still : s.tbi = { s.tbi with queue := s.tbi.queue ++ [] } := by rw [List.append_nil]
  cases held : s.tbi.holds .suspect with
  | true =>
    rw [Station.suspectPulse_of_held held]
    refine ⟨[], s.mbr.suspectOrigin, still, rfl, fun _ => ⟨rfl, rfl⟩, fun free => ?_⟩
    obtain ⟨d, hd, kind⟩ := (Tbi.holds_iff _ _).mp held
    exact absurd kind (free d hd)
  | false =>
    have free : ¬∃ d ∈ s.tbi.queue, d.msg.kind = .suspect := fun some_ => by
      rw [(Tbi.holds_iff _ _).mpr some_] at held
      exact absurd held (by decide)
    cases choice : s.mbr.choice s.number with
    | none =>
      rw [Station.suspectPulse_of_none choice]
      refine ⟨[], s.mbr.suspectOrigin, still, rfl, fun some_ => absurd some_ free, fun _ =>
        ⟨fun x holder other late => ?_, fun ticks => ⟨fun x late lowest => ?_, fun _ => ⟨rfl, rfl⟩⟩⟩⟩
      · rw [Mbr.choice_of_tick holder other late] at choice
        exact absurd choice (by simp)
      · rw [Mbr.choice_of_beacons ticks, Station.overdue_of_lowest late lowest] at choice
        exact absurd choice (by simp)
    | some chosen =>
      obtain ⟨y, origin⟩ := chosen
      rw [Station.suspectPulse_of_choice held choice]
      refine ⟨[⟨.suspect y, .waiting⟩], some origin, rfl, rfl, fun some_ => absurd some_ free, fun _ =>
        ⟨fun x holder other late => ?_, fun ticks => ⟨fun x late lowest => ?_, fun none => ?_⟩⟩⟩
      · rw [Mbr.choice_of_tick holder other late] at choice
        obtain ⟨rfl, rfl⟩ := Prod.mk.inj (Option.some.inj choice)
        exact ⟨rfl, rfl⟩
      · rw [Mbr.choice_of_beacons ticks, Station.overdue_of_lowest late lowest] at choice
        obtain ⟨rfl, rfl⟩ := Prod.mk.inj (Option.some.inj choice)
        exact ⟨rfl, rfl⟩
      · rw [Mbr.choice_of_beacons ticks, Station.overdue_of_not none] at choice
        exact absurd choice (by simp)

end

/-! ## The TICK queued (R13, R35) -/

section
variable {t : Tbi} {n : Refresh}

theorem Tbi.pushTick_of_sending (h : ∃ d ∈ t.queue, d.msg.kind = .tick ∧ d.status = .sending) :
    t.pushTick n = { t with heldTick := some n } := if_pos (by simpa [TxEntry.isKind] using h)

theorem Tbi.pushTick_of_waiting (h : ∀ d ∈ t.queue, d.msg.kind = .tick → d.status ≠ .sending)
    (held : ∃ d ∈ t.queue, d.msg.kind = .tick) : t.pushTick n = { t with queue := t.queue.map fun d =>
      if d.msg.kind = .tick then { d with msg := .tick n } else d } := by
  rw [Tbi.pushTick, if_neg (by simpa [TxEntry.isKind] using h), if_pos ((Tbi.holds_iff _ _).mpr held)]
  simp only [TxEntry.isKind, beq_iff_eq]

theorem Tbi.pushTick_of_none (none : ∀ d ∈ t.queue, d.msg.kind ≠ .tick) :
    t.pushTick n = t.push (.tick n) := by
  rw [Tbi.pushTick, if_neg (by simpa [TxEntry.isKind] using fun d hd kind => absurd kind (none d hd)), if_neg]
  rw [Tbi.holds_iff]
  exact fun ⟨d, hd, kind⟩ => none d hd kind

theorem Tbi.pushTick_eq (n : Refresh) (t : Tbi) :
    t.pushTick n = { t with queue := (t.pushTick n).queue, heldTick := (t.pushTick n).heldTick } := by
  unfold Tbi.pushTick
  split
  · rfl
  · split <;> rfl

/-- The TICK takes the place of a TICK, or none of any other entry. -/
theorem Tbi.pushTick_holds_suspect (n : Refresh) (t : Tbi) : (t.pushTick n).holds .suspect = t.holds .suspect := by
  unfold Tbi.pushTick Tbi.holds
  split
  · rfl
  · split
    · simp only [List.any_map]
      refine List.any_congr rfl fun d => ?_
      by_cases tick : d.isKind .tick = true
      · have kind : d.msg.kind = .tick := beq_iff_eq.mp tick
        simp only [Function.comp_apply, tick, if_true]
        rw [show TxEntry.isKind .suspect d = (d.msg.kind == .suspect) from rfl, kind]
        rfl
      · simp [tick]
    · simp [Tbi.push, TxEntry.isKind, TxMsg.kind]

end

end Sys2Proof.Machine
end

section
/-! PROOF. A pulse at a MEMBER, assembled (R34, R35, R39, R40, R41). -/

namespace Sys2Proof.Machine

section
variable {src : PulseSource} {s : Station}

/-! ## The membership unit's steps -/

/-- A MEMBER once its watches have moved and its TICK is queued. -/
def Station.dutyDone (s : Station) : Station :=
  ((if s.mbr.starves s.number then s.count .tickStarved else s).onMbr (Mbr.watchPulse s.number)).tickPulse

theorem Station.memberPulse_eq (s : Station) : s.memberPulse = s.dutyDone.suspectPulse := rfl

theorem Station.watched_same (s : Station) : Touches [.mbr, .stu] s
    ((if s.mbr.starves s.number then s.count .tickStarved else s).onMbr (Mbr.watchPulse s.number)) :=
  .step (l₁ := [.stu]) (.ite (touches_count _ s) (.refl _ _)) (touches_onMbr _ _) (by decide) (by decide)

theorem touches_dutyDone (s : Station) : Touches [.tbi, .mbr, .stu] s s.dutyDone :=
  .step s.watched_same (touches_tickPulse _) (by decide) (by decide)

theorem Station.dutyDone_mbr (s : Station) : s.dutyDone.mbr = s.mbr.watchPulse s.number := by
  rw [Station.dutyDone, (touches_tickPulse _).mbr (by decide), Station.onMbr_mbr]
  split <;> rfl

theorem Station.dutyDone_number (s : Station) : s.dutyDone.number = s.number :=
  (touches_dutyDone s).number (by decide)

theorem Station.tickPulse_tbi (s : Station) : s.tickPulse.tbi =
    if s.mbr.dutyHolder = some s.number then s.tbi.pushTick s.ftc.refresh else s.tbi := by
  unfold Station.tickPulse
  split <;> rfl

theorem Station.dutyDone_tbi (s : Station) : s.dutyDone.tbi =
    if s.mbr.lowestMember = some s.number then s.tbi.pushTick s.ftc.refresh else s.tbi := by
  have same := s.watched_same
  have holder : ((if s.mbr.starves s.number then s.count .tickStarved else s).onMbr
      (Mbr.watchPulse s.number)).mbr.dutyHolder = s.mbr.lowestMember := by
    split <;> rfl
  rw [Station.dutyDone, Station.tickPulse_tbi, holder, same.tbi (by decide), same.ftc (by decide)]
  exact ite_congr (by rw [Station.number, same.straps (by decide)]; rfl) (fun _ => rfl) fun _ => rfl

theorem Station.dutyDone_starved (s : Station) : s.dutyDone.stu.counters.get .tickStarved =
    if s.mbr.starves s.number then saturate (s.stu.counters.get .tickStarved)
    else s.stu.counters.get .tickStarved := by
  rw [Station.dutyDone, (touches_tickPulse _).stu (by decide), Station.onMbr_stu]
  split
  · rw [Station.count_get, if_pos rfl]
  · rfl

theorem Station.dutyDone_holds_suspect (s : Station) : s.dutyDone.tbi.holds .suspect = s.tbi.holds .suspect := by
  rw [Station.dutyDone_tbi]
  split
  · exact Tbi.pushTick_holds_suspect _ _
  · rfl

/-! ## The watches (R39, R40) -/

theorem Mbr.watchPulse_roster {m : Mbr} {x : Nat} {e : RosterEntry} (own : Nat) (he : m.roster[x]? = some e) :
    (m.watchPulse own).roster[x]? = some (raiseWatch own x e) := by
  rw [Mbr.watchPulse, mapRoster_getElem?, he, Nat.zero_add]
  rfl

theorem Mbr.watchPulse_tick_of_new {m : Mbr} (own : Nat) (new : m.lowestMember ≠ m.dutyHolder) :
    (m.watchPulse own).tickWatch = 0 := if_pos new

theorem Mbr.watchPulse_tick {m : Mbr} (own : Nat) (kept : m.lowestMember = m.dutyHolder) :
    (m.watchPulse own).tickWatch = if m.tickWatch < 3 then
      (if m.tickWatch + 1 = 3 ∧ m.lowestMember = some own then 0 else m.tickWatch + 1) else m.tickWatch :=
  if_neg (not_not_intro kept)

theorem Mbr.starves_iff (m : Mbr) (own : Nat) : m.starves own = true ↔
    m.lowestMember = m.dutyHolder ∧ m.tickWatch = 2 ∧ m.dutyHolder = some own := by
  simp [Mbr.starves, and_assoc]

/-! ## What reaches the membership unit of a pulse -/

theorem Station.framed_mbr (src : PulseSource) (s : Station) : (s.framed src).mbr = s.mbr :=
  (touches_framed src s).mbr (by decide)

theorem Station.framed_tbi (src : PulseSource) (s : Station) : (s.framed src).tbi = s.tbi :=
  (touches_framed src s).tbi (by decide)

theorem Station.framed_number (src : PulseSource) (s : Station) : (s.framed src).number = s.number :=
  (touches_framed src s).number (by decide)

theorem Station.framed_refresh (src : PulseSource) (s : Station) :
    (s.framed src).ftc.refresh = s.ftc.refresh + 1 := by
  rw [Station.framed_ftc]

theorem Station.framed_starved (src : PulseSource) (s : Station) :
    (s.framed src).stu.counters.get .tickStarved = s.stu.counters.get .tickStarved := by
  rw [Station.framed, Station.ftcPulse_counters (by decide), Station.ended_counters]
  simp

theorem Station.mbrPulse_of_member (hs : s.mbr.state = .member) : s.mbrPulse = s.memberPulse := by
  simp only [Station.mbrPulse, hs]

end

/-- Settles O51: the watches, the TICK, and the SUSPECT of a member at a pulse. -/
theorem pulseAtMemberMovesTheDutyAndTheWatches : Obligations.PulseAtMemberMovesTheDutyAndTheWatches := by
  intro src s live due member
  have pulsed : (s.toStation.framed src).mbrPulse = (s.toStation.framed src).dutyDone.suspectPulse := by
    rw [Station.mbrPulse_of_member ((congrArg Mbr.state (Station.framed_mbr src s.toStation)).trans member),
      Station.memberPulse_eq]
  have duty : (s.toStation.framed src).dutyDone.mbr = s.mbr.watchPulse s.number := by
    rw [Station.dutyDone_mbr, Station.framed_mbr, Station.framed_number]
  have tbi : (s.toStation.framed src).dutyDone.tbi =
      if (s.mbr.watchPulse s.number).dutyHolder = some s.number then s.tbi.pushTick (s.ftc.refresh + 1) else s.tbi := by
    rw [Station.dutyDone_tbi, Station.framed_mbr, Station.framed_number, Station.framed_tbi, Station.framed_refresh]
    rfl
  have starved : (s.toStation.framed src).mbrPulse.stu.counters.get .tickStarved =
      if s.mbr.starves s.number then saturate (s.stu.counters.get .tickStarved)
      else s.stu.counters.get .tickStarved := by
    rw [pulsed, (touches_suspectPulse _).stu (by decide), Station.dutyDone_starved, Station.framed_mbr,
      Station.framed_number, Station.framed_starved]
  have number : (s.toStation.framed src).dutyDone.number = s.number :=
    (Station.dutyDone_number _).trans (Station.framed_number src s.toStation)
  have suspects : (∃ d ∈ (s.toStation.framed src).dutyDone.tbi.queue, d.msg.kind = .suspect) ↔
      ∃ d ∈ s.tbi.queue, d.msg.kind = .suspect := by
    rw [← Tbi.holds_iff, ← Tbi.holds_iff, Station.dutyDone_holds_suspect, Station.framed_tbi]
  obtain ⟨suspected, origin, tbi', mbr', held, free⟩ := (s.toStation.framed src).dutyDone.suspectPulse_moves
  rw [← pulsed] at tbi' mbr'
  rw [duty] at mbr' held free
  have mbr'' : ((s.toStation.framed src).mbrPulse.beginRefresh).mbr =
      { s.mbr.watchPulse s.number with suspectOrigin := origin } := mbr'
  have tbi'' : ((s.toStation.framed src).mbrPulse.beginRefresh).tbi = { (s.toStation.framed src).dutyDone.tbi with
      queue := (s.toStation.framed src).dutyDone.tbi.queue ++ suspected } := tbi'
  have late : ∀ x, ((s.toStation.framed src).mbrPulse.beginRefresh).overdueAt x ↔
      (s.toStation.framed src).dutyDone.overdueAt x := by
    refine Station.overdueAt_congr ?_ ?_
    · rw [number]
      exact (touches_pulsed src s.toStation).number (by decide)
    · rw [duty, mbr'']
  refine ⟨_, (s.toStation.framed src).dutyDone.tbi.queue, suspected, exec_pulse live due, ?_, ?_, ?_, ?_, ?_, ?_, ?_, ?_,
    ?_, ?_, ?_, ?_, .of_touches (touches_pulsed src s.toStation)⟩ <;> simp only [State.putStation_toStation, mbr'']
  · rfl
  · exact s.mbr.lowestMember_eq_some_iff
  · exact mapRoster_length _ _ _
  · intro x e he
    exact Mbr.watchPulse_roster s.number he
  · exact Mbr.watchPulse_tick_of_new s.number
  · intro kept
    have holder : (s.mbr.watchPulse s.number).dutyHolder = s.mbr.lowestMember := rfl
    rw [Mbr.watchPulse_tick s.number kept, holder]
    refine ⟨fun two own => ?_, fun below => ?_, fun three => if_neg (by omega)⟩
    · rw [if_pos (by omega), if_pos ⟨by omega, own⟩]
    · rw [if_pos (by omega), if_neg]
      rintro ⟨two, own⟩
      rcases below with one | ⟨-, other⟩
      · omega
      · exact other own
  · rw [Station.pulsed_stu, starved]
    exact ite_congr (propext (s.mbr.starves_iff s.number)) (fun _ => rfl) fun _ => rfl
  · rw [tbi'', tbi]
    split
    · rw [Tbi.pushTick_eq]
    · rfl
  · intro other
    rw [tbi'', tbi, if_neg other]
    exact ⟨rfl, rfl⟩
  · intro own
    rw [tbi'', tbi, if_pos own]
    refine ⟨fun sending => ?_, fun still => ⟨?_, fun waiting => ?_, fun none => ?_⟩⟩
    · rw [Tbi.pushTick_of_sending sending]
      exact ⟨rfl, rfl⟩
    · by_cases waiting : ∃ d ∈ s.tbi.queue, d.msg.kind = .tick
      · rw [Tbi.pushTick_of_waiting still waiting]
      · rw [Tbi.pushTick_of_none fun d hd kind => waiting ⟨d, hd, kind⟩]
        rfl
    · rw [Tbi.pushTick_of_waiting still waiting]
    · rw [Tbi.pushTick_of_none none]
      rfl
  · exact fun some_ => held (suspects.mpr some_)
  · intro none
    simp only [late]
    have none' : ∀ d ∈ (s.toStation.framed src).dutyDone.tbi.queue, d.msg.kind ≠ .suspect := fun d hd kind => by
      obtain ⟨d', hd', kind'⟩ := suspects.mp ⟨d, hd, kind⟩
      exact none d' hd' kind'
    rw [number] at free
    exact free none'

end Sys2Proof.Machine
end

section
/-! PROOF. A pulse before membership (R25, R31). -/

namespace Sys2Proof.Machine

section
variable {src : PulseSource} {s : Station}

theorem Station.listenPulse_of_early (early : s.mbr.tickWatch < 5) :
    s.listenPulse = s.onMbr fun m => { m with tickWatch := m.tickWatch + 1 } := if_pos (by omega)

/-- An empty roster clashes with no tile. -/
theorem Station.not_clashes_empty (s : Station) : ¬s.clashes Mbr.emptyRoster := by
  rintro ⟨i, e, he, member, -⟩
  obtain rfl := (List.mem_replicate.mp (List.mem_of_getElem? he)).2
  exact absurd member (by decide)

/-- The wall is found empty: JOINING with an empty roster, the JOIN queued (R25). -/
theorem Station.listenPulse_of_empty (last : 5 ≤ s.mbr.tickWatch) :
    s.listenPulse = (s.onMbr fun m => { m with
      state := .joining, roster := Mbr.emptyRoster, tickWatch := 0, retryCount := 0, joinWait := 0 }).onTbi
        (Tbi.pushOnce (.join s.tileByte)) :=
  (if_neg (by omega)).trans
    (Station.enterJoining_of_none (s := s.onMbr fun m => { m with roster := Mbr.emptyRoster }) s.not_clashes_empty)

theorem Station.joinPulse_of_idle (idle : s.mbr.joinWait = 0) : s.joinPulse = s := if_pos idle

theorem Station.joinPulse_of_wait (wait : 1 < s.mbr.joinWait) :
    s.joinPulse = s.onMbr fun m => { m with joinWait := m.joinWait - 1 } :=
  (if_neg (by omega)).trans (if_neg (by omega))

theorem Station.joinPulse_of_clash (last : s.mbr.joinWait = 1) (clash : s.clashes s.mbr.roster) :
    s.joinPulse = (s.onMbr fun m => { m with joinWait := 0 }).reject :=
  ((if_neg (by omega)).trans (if_pos last)).trans
    (Station.tryJoin_of_clash (s := s.onMbr fun m => { m with joinWait := 0 }) clash)

theorem Station.joinPulse_of_none (last : s.mbr.joinWait = 1) (none : ¬s.clashes s.mbr.roster) :
    s.joinPulse = (s.onMbr fun m => { m with joinWait := 0 }).onTbi (Tbi.pushOnce (.join s.tileByte)) :=
  ((if_neg (by omega)).trans (if_pos last)).trans
    (Station.tryJoin_of_none (s := s.onMbr fun m => { m with joinWait := 0 }) none)

theorem Station.mbrPulse_of_listening (h : s.mbr.state = .listening) : s.mbrPulse = s.listenPulse := by
  simp only [Station.mbrPulse, h]

theorem Station.mbrPulse_of_joining (h : s.mbr.state = .joining) : s.mbrPulse = s.joinPulse := by
  simp only [Station.mbrPulse, h]

theorem Station.mbrPulse_of_out (h : s.mbr.state = .idleOut ∨ s.mbr.state = .rejected) : s.mbrPulse = s := by
  rcases h with h | h <;> simp only [Station.mbrPulse, h]

theorem Station.mbrPulse_stu_of_not_member (other : s.mbr.state ≠ .member) : s.mbrPulse.stu = s.stu := by
  unfold Station.mbrPulse
  split
  · exact (touches_listenPulse s).stu (by decide)
  · exact (touches_joinPulse s).stu (by decide)
  · exact absurd ‹_› other
  · rfl
  · rfl

/-- The queue with the own JOIN in it. -/
theorem Station.pushOnce_join (s : Station) : s.tbi.pushOnce (.join s.tileByte) = { s.tbi with queue :=
    if ∀ d ∈ s.tbi.queue, d.msg.kind ≠ .join then s.tbi.queue ++ [⟨.join s.tileByte, .waiting⟩] else s.tbi.queue } :=
  Tbi.pushOnce_eq _ _

theorem Station.mbrPulse_listening (h : s.mbr.state = .listening) :
    (s.mbr.tickWatch < 5 → s.mbrPulse.mbr = { s.mbr with tickWatch := s.mbr.tickWatch + 1 } ∧ s.mbrPulse.tbi = s.tbi) ∧
    (5 ≤ s.mbr.tickWatch → s.mbrPulse.mbr = { s.mbr with
        state := .joining, roster := List.replicate 32 RosterEntry.absent, tickWatch := 0
        retryCount := 0, joinWait := 0 } ∧
      s.mbrPulse.tbi = s.tbi.pushOnce (.join s.tileByte)) := by
  rw [Station.mbrPulse_of_listening h]
  refine ⟨fun early => ?_, fun last => ?_⟩
  · rw [Station.listenPulse_of_early early]
    exact ⟨rfl, rfl⟩
  · rw [Station.listenPulse_of_empty last]
    exact ⟨rfl, rfl⟩

theorem Station.mbrPulse_joining (h : s.mbr.state = .joining) :
    (s.mbr.joinWait = 0 → s.mbrPulse.mbr = s.mbr ∧ s.mbrPulse.tbi = s.tbi) ∧
    (1 < s.mbr.joinWait →
      s.mbrPulse.mbr = { s.mbr with joinWait := s.mbr.joinWait - 1 } ∧ s.mbrPulse.tbi = s.tbi) ∧
    (s.mbr.joinWait = 1 → s.clashes s.mbr.roster → s.mbrPulse.mbr = s.mbr.turnedAway ∧
      s.mbrPulse.tbi = { s.tbi with queue := s.tbi.queue.filter fun d =>
        d.status == .sending || d.msg.kind != .join }) ∧
    (s.mbr.joinWait = 1 → ¬s.clashes s.mbr.roster → s.mbrPulse.mbr = { s.mbr with joinWait := 0 } ∧
      s.mbrPulse.tbi = s.tbi.pushOnce (.join s.tileByte)) := by
  rw [Station.mbrPulse_of_joining h]
  refine ⟨fun idle => ?_, fun wait => ?_, fun last clash => ?_, fun last none => ?_⟩
  · rw [Station.joinPulse_of_idle idle]
    exact ⟨rfl, rfl⟩
  · rw [Station.joinPulse_of_wait wait]
    exact ⟨rfl, rfl⟩
  · rw [Station.joinPulse_of_clash last clash, Station.reject_tbi]
    exact ⟨rfl, rfl⟩
  · rw [Station.joinPulse_of_none last none]
    exact ⟨rfl, rfl⟩

end

/-- Settles O52, by the station's state. -/
theorem pulseBeforeMembershipRunsTheJoin : Obligations.PulseBeforeMembershipRunsTheJoin := by
  intro src s live due other
  have mbr := Station.framed_mbr src s.toStation
  have tbi := Station.framed_tbi src s.toStation
  have straps := (touches_framed src s.toStation).straps (by decide)
  have tile : (s.toStation.framed src).tileByte = s.tileByte := by rw [Station.tileByte, straps]; rfl
  have clashes (roster : List RosterEntry) : (s.toStation.framed src).clashes roster ↔ s.clashes roster := by
    rw [Station.clashes, Station.number, Station.tile, straps]
    rfl
  have listening := Station.mbrPulse_listening (s := s.toStation.framed src)
  have joining := Station.mbrPulse_joining (s := s.toStation.framed src)
  have out := Station.mbrPulse_of_out (s := s.toStation.framed src)
  simp only [mbr, tbi, tile, clashes] at listening joining out
  refine ⟨_, exec_pulse live due, fun state => (listening state).1, fun state last => ((listening state).2 last).1,
    fun state => (joining state).1, fun state => (joining state).2.1, fun state => (joining state).2.2.1,
    fun state last none => ((joining state).2.2.2 last none).1, fun joins => ?_, fun state => ?_, ?_,
    .of_touches (touches_pulsed src s.toStation)⟩
  · rw [← Station.pushOnce_join]
    rcases joins with ⟨state, last⟩ | ⟨state, last, none⟩
    · exact ((listening state).2 last).2
    · exact ((joining state).2.2.2 last none).2
  · have still : (s.toStation.framed src).mbrPulse.beginRefresh = (s.toStation.framed src).beginRefresh :=
      congrArg Station.beginRefresh (out state)
    rw [State.putStation_toStation, still]
    exact ⟨mbr, tbi⟩
  · rw [State.putStation_toStation, Station.pulsed_stu, Station.mbrPulse_stu_of_not_member (by rwa [mbr]),
      Station.framed_starved]

end Sys2Proof.Machine
end

section
/-! PROOF. The commands that name a pulse by what it brings about (log 7; R25, R31, R39, R40, R88). -/

namespace Sys2Proof.Machine

section
variable {src : PulseSource} {s : State} {due : Station → Bool} {c : Instr}

/-! ## A named pulse as a pulse -/

/-- A command that is a pulse of a source when a condition stands. -/
def NamesPulse (c : Instr) (due : Station → Bool) (src : PulseSource) : Prop :=
  ∀ s, exec c s = onLive (Station.namedPulse due src) s

theorem NamesPulse.exec_of_due (names : NamesPulse c due src) (live : s.resetAsserted = false)
    (pulse : s.pulseDue src = true) (stands : due s.toStation = true) : exec c s = exec (pulseCommand src) s := by
  rw [names, onLive_live live, exec_pulse live pulse, Station.namedPulse, stands, pulse]
  exact congrArg (fun u => Host.Outcome.next (s.putStation u)) (Station.pulseFrom_eq pulse)

theorem NamesPulse.exec_of_not (names : NamesPulse c due src) (live : s.resetAsserted = false)
    (none : (due s.toStation && s.pulseDue src) = false) : exec c s = .next s := by
  rw [names, onLive_live live, Station.namedPulse, none]
  rfl

theorem names_beaconWatch (src : PulseSource) (x : BitVec 5) :
    NamesPulse (Instr.beaconWatchExpiry src x) (Station.beaconWatchDue x.toNat) src := fun _ => rfl

theorem names_tickWatch (src : PulseSource) : NamesPulse (Instr.tickWatchExpiry src) Station.tickWatchDue src := fun _ => rfl

theorem names_listen (src : PulseSource) : NamesPulse (Instr.listenTimeout src) Station.listenDue src := fun _ => rfl

theorem names_joinWait (src : PulseSource) : NamesPulse (Instr.joinWaitEnd src) Station.joinWaitDue src := fun _ => rfl

theorem names_stall (src : PulseSource) : NamesPulse (Instr.stall src) Station.stallDue src := fun _ => rfl

/-! ## The conditions -/

theorem Station.beaconWatchDue_iff (x : Nat) (s : Station) : s.beaconWatchDue x = true ↔
    s.mbr.state = .member ∧ x ≠ s.number ∧ s.mbr.isMember x = true ∧ (s.mbr.entry x).watch = 23 := decide_eq_true_iff

theorem Station.tickWatchDue_iff (s : Station) : s.tickWatchDue = true ↔
    s.mbr.state = .member ∧ s.mbr.lowestMember = s.mbr.dutyHolder ∧ s.mbr.tickWatch = 2 := decide_eq_true_iff

theorem Station.listenDue_iff (s : Station) : s.listenDue = true ↔
    s.mbr.state = .listening ∧ s.mbr.tickWatch = 5 := decide_eq_true_iff

theorem Station.joinWaitDue_iff (s : Station) : s.joinWaitDue = true ↔
    s.mbr.state = .joining ∧ s.mbr.joinWait = 1 := decide_eq_true_iff

theorem FrameRecord.watched_state (limit : Nat) (r : FrameRecord) : (r.watched limit).state = r.state := by
  unfold FrameRecord.watched
  split <;> rfl

theorem FrameRecord.watched_stalled (limit : Nat) (r : FrameRecord) : (r.watched limit).stalled = r.stalled := by
  unfold FrameRecord.watched
  split <;> rfl

theorem FrameRecord.watched_full_iff (limit : Nat) {r : FrameRecord} (uncommitted : r.state.isUncommitted = true) :
    (r.watched limit).stallCount = limit ↔ r.stallCount = limit ∨ r.stallCount + 1 = limit := by
  simp only [FrameRecord.watched, uncommitted, true_and]
  split
  · dsimp only
    omega
  · omega

theorem Station.watched_oldest (limit : Nat) (rs : List FrameRecord) :
    (rs.map (FrameRecord.watched limit)).find? (fun x => x.state.isUncommitted) =
      (rs.find? fun x => x.state.isUncommitted).map (FrameRecord.watched limit) := by
  simp only [List.find?_map, Function.comp_def, FrameRecord.watched_state]

/-- The oldest uncommitted record is flagged at the next pulse, or none is. -/
theorem Station.stallDue_of_oldest {s : Station} {r : FrameRecord}
    (oldest : (s.ftc.records.find? fun x => x.state.isUncommitted) = some r) : s.stallDue = true ↔
      r.stalled = false ∧ (r.stallCount = s.stallLimit ∨ r.stallCount + 1 = s.stallLimit) := by
  have uncommitted : r.state.isUncommitted = true := (List.find?_some oldest :)
  have moved := Station.watched_oldest s.stallLimit s.ftc.records
  rw [oldest] at moved
  simp only [Station.stallDue, Ftc.stallsAt, Ftc.oldest, FrameRecord.stallPulse_eq, moved, Option.map_some,
    FrameRecord.watched_full_iff s.stallLimit uncommitted, FrameRecord.watched_stalled]
  split
  · next h => simpa using ⟨h.2, h.1⟩
  · next h => simpa using fun unflagged full => h ⟨full, unflagged⟩

theorem Station.stallDue_of_none {s : Station} (none : ∀ r ∈ s.ftc.records, r.state.isUncommitted = false) :
    s.stallDue = false := by
  have missing : (s.ftc.records.find? fun x => x.state.isUncommitted) = Option.none := by simpa using none
  have moved := Station.watched_oldest s.stallLimit s.ftc.records
  rw [missing] at moved
  simp only [Station.stallDue, Ftc.stallsAt, Ftc.oldest, FrameRecord.stallPulse_eq, moved, Option.map_none,
    Option.isSome_none]

end

/-- Settles O53: each command where its condition stands with the pulse due, and where it does not. -/
theorem namedPulsesArePulsesWhenDue : Obligations.NamedPulsesArePulsesWhenDue := by
  intro src s live
  have idle {c : Instr} {due : Station → Bool} (names : NamesPulse c due src) (off : ¬due s.toStation = true) :
      exec c s = .next s :=
    names.exec_of_not live (by rw [Bool.of_not_eq_true off, Bool.false_and])
  refine ⟨fun off c hc => ?_, fun pulse => ⟨_, exec_pulse live pulse, ?_, ?_, ?_, ?_⟩, fun none => ?_,
    fun x => ⟨?_, ?_⟩, ?_, ?_, ?_⟩
  · have stays {c : Instr} {due : Station → Bool} (names : NamesPulse c due src) : exec c s = .next s :=
      names.exec_of_not live (by rw [off, Bool.and_false])
    simp only [List.mem_cons, List.not_mem_nil, or_false] at hc
    rcases hc with rfl | rfl | rfl | rfl
    · exact stays (names_tickWatch src)
    · exact stays (names_listen src)
    · exact stays (names_joinWait src)
    · exact stays (names_stall src)
  · intro member kept two
    obtain ⟨t, _, _, runs, -, holder, -, -, -, watch, starved, -⟩ :=
      pulseAtMemberMovesTheDutyAndTheWatches src s live pulse member
    obtain rfl := Host.Outcome.next.inj ((exec_pulse live pulse).symm.trans runs)
    have same : ((s.toStation.framed src).mbrPulse.beginRefresh).mbr.dutyHolder = s.mbr.dutyHolder := by
      rw [← kept]
      exact Option.ext fun x => (holder x).trans (s.mbr.lowestMember_eq_some_iff x).symm
    obtain ⟨own, other, -⟩ := watch same
    exact ⟨((names_tickWatch src).exec_of_due live pulse (s.tickWatchDue_iff.mpr ⟨member, kept, two⟩)).trans runs,
      fun apart => (other (.inr ⟨two, fun h => apart (same.symm.trans h)⟩)).trans (congrArg (· + 1) two),
      fun duty => ⟨own two (same.trans duty), starved.trans (if_pos ⟨same, two, duty⟩)⟩⟩
  · intro state last
    obtain ⟨t, runs, -, joins, -⟩ := pulseBeforeMembershipRunsTheJoin src s live pulse (by rw [state]; decide)
    obtain rfl := Host.Outcome.next.inj ((exec_pulse live pulse).symm.trans runs)
    exact ⟨((names_listen src).exec_of_due live pulse (s.listenDue_iff.mpr ⟨state, last⟩)).trans runs,
      congrArg Mbr.state (joins state (Nat.le_of_eq last.symm))⟩
  · intro state last
    obtain ⟨t, runs, -, -, -, -, clash, free, -⟩ :=
      pulseBeforeMembershipRunsTheJoin src s live pulse (by rw [state]; decide)
    obtain rfl := Host.Outcome.next.inj ((exec_pulse live pulse).symm.trans runs)
    refine ⟨((names_joinWait src).exec_of_due live pulse (s.joinWaitDue_iff.mpr ⟨state, last⟩)).trans runs, ?_⟩
    by_cases clashes : s.clashes s.mbr.roster
    · exact congrArg Mbr.joinWait (clash state last clashes).1
    · exact congrArg Mbr.joinWait (free state last clashes)
  · intro r limit code oldest
    have full : s.stallLimit = limit := stallLimit_of_code code
    have stalls := Station.stallDue_of_oldest oldest
    rw [full] at stalls
    refine ⟨fun unflagged next => ?_, fun never => idle (names_stall src) fun due => ?_⟩
    · rw [(names_stall src).exec_of_due live pulse (stalls.mpr ⟨unflagged, next⟩), exec_pulse live pulse]
    · obtain ⟨unflagged, next⟩ := stalls.mp due
      rcases never with flagged | ⟨other, before⟩
      · exact absurd (unflagged.symm.trans flagged) (by decide)
      · exact next.elim other before
  · exact idle (names_stall src) (by rw [Station.stallDue_of_none none]; exact Bool.false_ne_true)
  · rintro ⟨pulse, stands⟩
    refine ⟨(names_beaconWatch src x).exec_of_due live pulse ((s.beaconWatchDue_iff _).mpr stands), fun t runs => ?_⟩
    obtain ⟨member, other, listed, late⟩ := stands
    obtain ⟨t', _, _, runs', -, -, -, roster, -⟩ := pulseAtMemberMovesTheDutyAndTheWatches src s live pulse member
    obtain rfl := Host.Outcome.next.inj (runs'.symm.trans runs)
    obtain ⟨e, he, entry⟩ := (s.mbr.isMember_iff _).mp listed
    rw [Mbr.entry_of_getElem? he] at late
    rw [Mbr.entry_of_getElem? (roster _ e he), if_pos ⟨entry, other, by omega⟩, late]
  · intro off
    refine (names_beaconWatch src x).exec_of_not live ?_
    rw [← Bool.not_eq_true, Bool.and_eq_true, Station.beaconWatchDue_iff]
    rintro ⟨⟨member, other, listed, late⟩, pulse⟩
    rcases off with off | off | off | off | off
    · exact absurd (off.symm.trans pulse) (by decide)
    · exact off member
    · exact other off
    · exact absurd (off.symm.trans listed) (by decide)
    · exact off late
  · exact fun off => idle (names_tickWatch src) fun due => by
      obtain ⟨member, kept, two⟩ := s.tickWatchDue_iff.mp due
      exact off.elim (· member) fun off => off.elim (· kept) (· two)
  · exact fun off => idle (names_listen src) fun due => by
      obtain ⟨state, last⟩ := s.listenDue_iff.mp due
      exact off.elim (· state) (· last)
  · exact fun off => idle (names_joinWait src) fun due => by
      obtain ⟨state, last⟩ := s.joinWaitDue_iff.mp due
      exact off.elim (· state) (· last)

end Sys2Proof.Machine
end

section
/-! PROOF. The panel: the blanking's end and the segments in raster order (R129, R144, R145, R153 to R156). -/

namespace Sys2Proof.Machine

section
variable {s : Station}

theorem Station.blankingEnd_of_blanking (h : s.scn.phase = .blanking) :
    s.blankingEnd = s.onScn fun c => { c with phase := .active, output := ⟨0, 0⟩ } := if_pos h

theorem Station.blankingEnd_of_other (h : s.scn.phase ≠ .blanking) : s.blankingEnd = s := if_neg h

/-- Where the raster goes on, or that it ends (R144, R153, R156). -/
theorem Station.advanceOutput_scn (s : Station) : s.advanceOutput.scn = { s.scn with
    output := (s.nextSegment s.scn.output).getD s.scn.output
    phase := if (s.nextSegment s.scn.output).isSome then s.scn.phase else .ended
    panel := if (s.nextSegment s.scn.output).isSome then s.scn.panel else .blanking } := by
  unfold Station.advanceOutput
  cases s.nextSegment s.scn.output <;> rfl

/-- A fetch position on the segment taken moves past it (R129, R154). -/
theorem Station.skipFetch_scn (s : Station) : s.skipFetch.scn = { s.scn with
    fetch := if s.scn.fetch = some s.scn.output then s.nextSegment s.scn.output else s.scn.fetch } := by
  unfold Station.skipFetch
  split <;> rfl

theorem Station.nextSegment_congr {t : Station} (h : t.straps = s.straps) (p : SegPos) :
    t.nextSegment p = s.nextSegment p := by
  cases s
  cases t
  cases h
  rfl

/-- The scan engine once pixels are put out at the output position, with the FIFO and the fetch position left. -/
def Station.tookSegment (rgb : List Rgb) (fifo : List Segment) (fetch : Option SegPos) (s : Station) : Scn :=
  { s.scn with
    panel := if (s.nextSegment s.scn.output).isSome then .lines else .blanking
    taken := some ⟨s.scn.output, rgb⟩, fifo := fifo, fetch := fetch
    output := (s.nextSegment s.scn.output).getD s.scn.output
    phase := if (s.nextSegment s.scn.output).isSome then .active else .ended }

/-- A segment that the FIFO did not hold: black, and the fetch position past it. -/
theorem Station.skipped_scn {u : Station} (active : s.scn.phase = .active)
    (shown : u.scn = (s.showSegment blackSegment).scn) (straps : u.straps = s.straps) :
    u.skipFetch.advanceOutput.scn = s.tookSegment blackSegment s.scn.fifo
      (if s.scn.fetch = some s.scn.output then s.nextSegment s.scn.output else s.scn.fetch) := by
  have straps' : u.skipFetch.straps = s.straps := ((touches_skipFetch u).straps (by decide)).trans straps
  rw [Station.advanceOutput_scn, Station.skipFetch_scn, Station.nextSegment_congr straps,
    Station.nextSegment_congr straps', shown]
  simp only [Station.tookSegment, Station.showSegment, Station.onScn_scn, active]

theorem Station.segmentTaken_of_other (h : s.scn.phase ≠ .active) : s.segmentTaken = s := if_neg h

theorem Station.segmentTaken_of_none (active : s.scn.phase = .active) (front : s.scn.front = none) :
    s.segmentTaken = (s.showSegment blackSegment).skipFetch.advanceOutput := by
  simp only [Station.segmentTaken, active, front, if_true]

theorem Station.segmentTaken_of_held (active : s.scn.phase = .active) {b : Buf} {g : Segment} {gs : List Segment}
    (front : s.scn.front = some b) (fifo : s.scn.fifo = g :: gs) : s.segmentTaken =
      ((s.showSegment (g.pixels.map Pixel.rgb)).onScn fun c => { c with fifo := gs }).advanceOutput := by
  simp only [Station.segmentTaken, active, front, fifo, if_true]

theorem Station.segmentTaken_of_empty (active : s.scn.phase = .active) {b : Buf} (front : s.scn.front = some b)
    (fifo : s.scn.fifo = []) :
    s.segmentTaken = ((s.showSegment blackSegment).count .underflow).skipFetch.advanceOutput := by
  simp only [Station.segmentTaken, active, front, fifo, if_true]

/-- A segment of the FIFO. -/
theorem Station.held_scn (active : s.scn.phase = .active) (rgb : List Rgb) (gs : List Segment) :
    ((s.showSegment rgb).onScn fun c => { c with fifo := gs }).advanceOutput.scn =
      s.tookSegment rgb gs s.scn.fetch := by
  have straps : ((s.showSegment rgb).onScn fun c => { c with fifo := gs }).straps = s.straps := rfl
  rw [Station.advanceOutput_scn, Station.nextSegment_congr straps]
  simp only [Station.tookSegment, Station.showSegment, Station.onScn_scn, active]

end

/-- Settles O54: the end of the blanking, and a segment in each of the three cases. -/
theorem panelTakesTheSegmentsInRasterOrder : Obligations.PanelTakesTheSegmentsInRasterOrder := by
  refine ⟨fun s live => ⟨fun blanking => ?_, fun other => ?_, fun other => ?_⟩, fun s next live active raster => ?_⟩
  · have runs : exec .blankingEnd s = .next (s.putStation s.toStation.blankingEnd) := onLive_live live
    refine ⟨_, runs, ?_, .of_touches (touches_blankingEnd _)⟩
    rw [State.putStation_toStation, Station.blankingEnd_of_blanking blanking]
    rfl
  · exact (onLive_live live).trans
      (congrArg (fun u => Host.Outcome.next (s.putStation u)) (Station.blankingEnd_of_other other))
  · exact (onLive_live live).trans
      (congrArg (fun u => Host.Outcome.next (s.putStation u)) (Station.segmentTaken_of_other other))
  · have runs : exec .segmentTaken s = .next (s.putStation s.toStation.segmentTaken) := onLive_live live
    have moved : s.nextSegment s.scn.output = next := raster.symm
    have same : SameBut [.scn, .stu] s (s.putStation s.toStation.segmentTaken) := .of_touches (touches_segmentTaken _)
    have stu {u : Station} : u.skipFetch.advanceOutput.stu = u.stu :=
      ((touches_advanceOutput _).stu (by decide)).trans ((touches_skipFetch _).stu (by decide))
    subst moved
    cases front : s.scn.front with
    | none =>
      have taken := Station.segmentTaken_of_none active front
      refine ⟨_, _, _, _, runs, ⟨rfl, rfl, rfl, ?_⟩, ?_, same⟩ <;> rw [State.putStation_toStation, taken]
      · exact stu
      · exact Station.skipped_scn active rfl rfl
    | some b =>
      cases fifo : s.scn.fifo with
      | nil =>
        have taken := Station.segmentTaken_of_empty active front fifo
        refine ⟨_, _, _, _, runs, ⟨rfl, rfl, rfl, ?_⟩, ?_, same⟩ <;> rw [State.putStation_toStation, taken]
        · rw [stu, Station.count_stu]
          rfl
        · rw [← fifo]
          exact Station.skipped_scn active rfl rfl
      | cons g gs =>
        have taken := Station.segmentTaken_of_held active front fifo
        refine ⟨_, _, _, _, runs, ⟨rfl, rfl, rfl, ?_⟩, ?_, same⟩ <;> rw [State.putStation_toStation, taken]
        · exact (touches_advanceOutput _).stu (by decide)
        · exact Station.held_scn active _ _

end Sys2Proof.Machine
end

section
/-! PROOF. READ_REQUEST: the seven steps, and the read record of a standing one (R160 to R163). -/

namespace Sys2Proof.Machine

/-! ## The frame and its state (R161, R162) -/

theorem rectValid_iff (x y w h : BitVec 16) : rectValid x y w h = true ↔
    w ≠ 0 ∧ h ≠ 0 ∧ x.toNat + w.toNat ≤ 65536 ∧ y.toNat + h.toNat ≤ 65536 := decide_eq_true_iff

theorem Ftc.resolve_of_selects {t : Ftc} {sel : Option FrameNo} {n : FrameNo} (h : t.selects sel n) :
    t.resolve sel = some n := by
  rcases h with rfl | ⟨rfl, ⟨r, committed, rfl⟩ | ⟨none, r, shown, rfl⟩⟩
  · rfl
  · have oldest : t.oldest (· == .committed) = some r := committed
    simp only [Ftc.resolve, oldest]
  · have missing : t.oldest (· == .committed) = Option.none := by simpa [Ftc.oldest] using none
    have oldest : t.oldest (· == .shown) = some r := shown
    simp only [Ftc.resolve, missing, oldest, Option.map_some]

theorem Ftc.resolve_of_none {t : Ftc} (h : ∀ r ∈ t.records, r.state ≠ .committed ∧ r.state ≠ .shown) :
    t.resolve none = none := by
  have uncommitted : t.oldest (· == .committed) = none := by
    simpa [Ftc.oldest] using fun r hr => (h r hr).1
  have unshown : t.oldest (· == .shown) = none := by
    simpa [Ftc.oldest] using fun r hr => (h r hr).2
  simp only [Ftc.resolve, uncommitted, unshown, Option.map_none]

theorem FrameState.isReadable_iff (st : FrameState) :
    st.isReadable = true ↔ st ∈ [FrameState.drained, .ready, .committed, .shown] := by
  cases st <;> decide

theorem FrameState.isReadable_eq_false_iff (st : FrameState) :
    st.isReadable = false ↔ st ∈ [FrameState.init, .filling, .sealed, .retiring] := by
  cases st <;> decide

theorem FrameState.hasDrained_iff (st : FrameState) :
    st.hasDrained = true ↔ st ∈ [FrameState.drained, .ready, .committed, .shown, .retiring] := by
  cases st <;> decide

theorem FrameState.hasDrained_of_readable {st : FrameState} (h : st.isReadable = true) : st.hasDrained = true := by
  cases st <;> first | rfl | exact absurd h (by decide)

theorem ReadRecord.any_isOf_iff (p : Nat) (tag : Byte) (rs : List ReadRecord) :
    rs.any (ReadRecord.isOf p tag) = true ↔ ∃ k ∈ rs, k.requester = p ∧ k.tag = tag := by
  simp [ReadRecord.isOf]

/-! ## The seven steps (R162) -/

section
variable {p : Nat} {tag : Byte} {sel : Option FrameNo} {x y w h : BitVec 16} {s : Station} {n : FrameNo}
  {r : FrameRecord}

theorem decideReadRequest_of_invalid (bad : rectValid x y w h = false) :
    decideReadRequest p (.readRequest tag sel x y w h) s = .refuse .badField := if_pos bad

section
variable (good : rectValid x y w h = true)
include good

theorem decideReadRequest_of_unresolved (none : s.ftc.resolve sel = Option.none) :
    decideReadRequest p (.readRequest tag sel x y w h) s = .pass .nothing := by
  simp only [decideReadRequest, good, none, Bool.true_eq_false, if_false]

variable (selected : s.ftc.resolve sel = some n)
include selected

theorem decideReadRequest_of_not_held (hr : s.ftc.find n = none) :
    decideReadRequest p (.readRequest tag sel x y w h) s =
      if s.ftc.f0Passes n then .pass .nothing else .refuse .frameState := by
  simp only [decideReadRequest, good, selected, hr, Bool.true_eq_false, if_false]

variable (hr : s.ftc.find n = some r)
include hr

theorem decideReadRequest_of_missed (missed : s.clip x y w h = none) :
    decideReadRequest p (.readRequest tag sel x y w h) s = .pass .nothing := by
  simp only [decideReadRequest, good, selected, hr, missed, Bool.true_eq_false, if_false]

theorem decideReadRequest_of_clipped {c : Rect} (clipped : s.clip x y w h = some c) :
    decideReadRequest p (.readRequest tag sel x y w h) s =
      if r.state.isReadable = false then .refuse .frameState
      else if 4 ≤ s.rbe.length then .refuse .readQueueFull
      else if s.rbe.any (ReadRecord.isOf p tag) then .refuse .badField
      else .pass (.read { requester := p, tag, frame := n, buffer := r.buffer, rect := c
                          row := 0, col := 0, nextChunk := 0, unconfirmed := 0 }) := by
  simp only [decideReadRequest, good, selected, hr, clipped, Bool.true_eq_false, if_false]

end

/-! ## The read record (R163) -/

theorem readRequestStands_of_nothing {v : Receiving} (aside : v.aside = .nothing) : readRequestStands v s = s := by
  simp only [readRequestStands, aside]

theorem readRequestStands_of_drained {v : Receiving} {k : ReadRecord} {f : FrameRecord} (aside : v.aside = .read k)
    (hf : s.ftc.find k.frame = some f) (drained : f.state.hasDrained = true) :
    readRequestStands v s = (s.onRbe (· ++ [k])).onFtc (Ftc.pinUp k.frame) := by
  simp only [readRequestStands, aside, hf, drained, if_true]

theorem readRequestStands_of_not_held {v : Receiving} {k : ReadRecord} (aside : v.aside = .read k)
    (hf : s.ftc.find k.frame = none) : readRequestStands v s = s := by
  simp only [readRequestStands, aside, hf]

end

/-- A message passed with nothing was decided so. -/
theorem decides_of_passes {k : Kind} {h : Heard} {m : Message} {s : State} (ho : s.hearsOther k h m)
    (hs : s.mbr.state = .member)
    (passed : Passes .nothing k h m s (s.putStation (s.toStation.hear k (decideOf k) h))) :
    decideOf k (wordParty h.word) m s.toStation = .pass .nothing := by
  have inHand : (s.toStation.hear k (decideOf k) h).tbi.receiving = _ := congrArg Tbi.receiving passed.1
  cases decided : decideOf k (wordParty h.word) m s.toStation with
  | refuse c =>
    have refused := congrArg Tbi.receiving (refuses_of_decide ho hs decided).1
    have differ := congrArg (Option.map Receiving.refused) (refused.symm.trans inHand)
    exact absurd (Option.some.inj differ : true = false) (by decide)
  | pass a =>
    have kept := congrArg Tbi.receiving (passes_of_decide ho hs decided).1
    have same := congrArg (Option.map Receiving.aside) (kept.symm.trans inHand)
    exact congrArg Decision.pass (Option.some.inj same)

end Sys2Proof.Machine
end

section
/-! PROOF. READ_REQUEST settled: each step's outcome, the record kept, and the verdict that comes alone
(R162, R163). -/

namespace Sys2Proof.Machine

theorem Ftc.pinUp_eq (n : FrameNo) (t : Ftc) : t.pinUp n = { t with records := t.records.map fun f =>
    if f.frame = n then { f with pins := f.pins + 1 } else f } := Ftc.onRecord_eq _ _ _

/-- Settles O55: the steps in order, then what stands. -/
theorem readRequestIsDecidedAndKept : Obligations.ReadRequestIsDecidedAndKept := by
  refine ⟨?_, ?_⟩
  · rintro h tag sel x y w ht m valid s rfl ho valid_iff
    rw [← rectValid_iff x y w ht] at valid_iff
    obtain ⟨u, runs⟩ : ∃ u, exec (.readRequest (.whole h .clear)) s = .next u := ⟨_, onLive_live ho.1.1⟩
    have refuse (hs : s.mbr.state = .member) {reason : Counter} (refused : decideReadRequest (wordParty h.word)
        (.readRequest tag sel x y w ht) s.toStation = .refuse reason) := refuses_of_decide (k := .readRequest) ho hs refused
    have pass (hs : s.mbr.state = .member) {a : SetAside} (passed : decideReadRequest (wordParty h.word)
        (.readRequest tag sel x y w ht) s.toStation = .pass a) := passes_of_decide (k := .readRequest) ho hs passed
    refine ⟨_, u, exec_checkCode (k := .readRequest) ho.1, runs, fun idle => ?_, fun hs => ⟨fun bad => ?_,
      fun good unnamed none => ?_, fun n good selected missing => ⟨fun f f0 n1 n2 => ?_, fun f0 => ?_⟩,
      fun n r good selected hr => ⟨fun missed => ?_, fun c clipped => ?_⟩⟩⟩
    · have unkept (ends : exec (.readRequest (.whole h .clear)) s = .next (s.putStation (standsOf .readRequest
          (passedRecord .readRequest h (.readRequest tag sel x y w ht) false .nothing)
          (s.toStation.onTbi Tbi.passedBy)))) : u.tbi = s.tbi.passedBy ∧ SameBut [.tbi] s u := by
        obtain rfl := Host.Outcome.next.inj (runs.symm.trans ends)
        rw [standsOf, readRequestStands_of_nothing rfl]
        exact ⟨rfl, .of_touches (touches_onTbi _ _)⟩
      by_cases hs : s.mbr.state = .member
      · exact unkept (exec_memberStands (k := .readRequest) ho hs
          (decides_of_passes ho hs (idle.resolve_left (not_not_intro hs))))
      · exact unkept (exec_nonMemberStands (k := .readRequest) ho hs)
    · exact refuse hs (decideReadRequest_of_invalid (Bool.eq_false_iff.mpr (bad ∘ valid_iff.mpr)))
    · subst unnamed
      exact pass hs (decideReadRequest_of_unresolved (valid_iff.mp good) (Ftc.resolve_of_none none))
    · refine refuse hs ((decideReadRequest_of_not_held (valid_iff.mp good) (Ftc.resolve_of_selects selected)
        missing).trans (if_neg ?_))
      simp [Ftc.f0Passes_eq_false f0 n1 n2]
    · exact pass hs ((decideReadRequest_of_not_held (valid_iff.mp good) (Ftc.resolve_of_selects selected)
        missing).trans (if_pos ((Ftc.f0Passes_iff _ _).mpr f0)))
    · exact pass hs (decideReadRequest_of_missed (valid_iff.mp good) (Ftc.resolve_of_selects selected) hr missed)
    · have decided := decideReadRequest_of_clipped (p := wordParty h.word) (tag := tag) (valid_iff.mp good)
        (Ftc.resolve_of_selects selected) hr clipped
      refine ⟨fun unreadable => refuse hs (decided.trans (if_pos ((FrameState.isReadable_eq_false_iff _).mpr unreadable))),
        fun readable => ?_⟩
      have readable := (FrameState.isReadable_iff _).mpr readable
      rw [if_neg (by simp [readable])] at decided
      refine ⟨fun full => refuse hs (decided.trans (if_pos full)), fun room taken => refuse hs ?_, fun k room fresh same => ?_⟩
      · exact decided.trans ((if_neg (Nat.not_le.mpr room)).trans (if_pos ((ReadRecord.any_isOf_iff _ _ _).mpr taken)))
      · have unused : ¬s.rbe.any (ReadRecord.isOf (wordParty h.word) tag) = true := by
          rw [ReadRecord.any_isOf_iff]
          exact fun ⟨d, hd, q, t⟩ => fresh d hd q t
        rw [if_neg (Nat.not_le.mpr room), if_neg unused, ← same] at decided
        have frame : k.frame = n := congrArg ReadRecord.frame same
        obtain rfl := Host.Outcome.next.inj (runs.symm.trans (exec_memberStands (k := .readRequest) ho hs decided))
        have stands := readRequestStands_of_drained (s := s.toStation.onTbi Tbi.passedBy)
          (v := passedRecord .readRequest h (.readRequest tag sel x y w ht) false (.read k)) rfl (frame ▸ hr)
          (FrameState.hasDrained_of_readable readable)
        have touched : Touches [.tbi, .rbe, .ftc] s.toStation (readRequestStands
            (passedRecord .readRequest h (.readRequest tag sel x y w ht) false (.read k))
            (s.toStation.onTbi Tbi.passedBy)) :=
          .step (touches_onTbi _ _) (touches_readRequestStands _ _) (by decide) (by decide)
        refine ⟨pass hs decided, ?_, ?_, ?_, .of_touches touched⟩ <;> rw [State.putStation_toStation, standsOf, stands]
        · rfl
        · rfl
        · rw [frame]
          exact Ftc.pinUp_eq _ _
  · intro k s hs
    obtain ⟨r, aside, -, runs⟩ := exec_verdictStands hs
    have touched : Touches [.tbi, .rbe, .ftc] s.toStation (standsOf .readRequest r
        (s.toStation.onTbi fun t => { t with receiving := none })) :=
      .step (touches_onTbi _ _) (touches_readRequestStands _ r) (by decide) (by decide)
    have rest := touches_readRequestStands (s.toStation.onTbi fun t => { t with receiving := none }) r
    refine ⟨_, runs, rest.tbi (by decide), fun f hf drained => ?_, fun missing => ?_, .of_touches touched⟩
    · have stands := readRequestStands_of_drained (s := s.toStation.onTbi fun t => { t with receiving := none }) aside hf
        ((FrameState.hasDrained_iff _).mpr drained)
      rw [State.putStation_toStation, standsOf, stands]
      exact ⟨rfl, Ftc.pinUp_eq _ _⟩
    · have stands := readRequestStands_of_not_held (s := s.toStation.onTbi fun t => { t with receiving := none }) aside
        missing
      rw [standsOf, stands]
      exact .of_touches (touches_onTbi _ _)

end Sys2Proof.Machine
end

section
/-! PROOF. READ_CANCEL and the own READ_REPLY: the record that ends, with its pin (R67, R69, R139, R168, R170,
R171). -/

namespace Sys2Proof.Machine

/-! ## A pin dropped, as the statements say it (R67, R69) -/

section
variable {n : FrameNo}

theorem List.filter_frame_pinLost (n : FrameNo) (rs : List FrameRecord) :
    (rs.map fun r => if r.frame = n then r.pinLost else r).filter (fun r => r.frame != n) =
      rs.filter fun r => r.frame != n := by
  induction rs with
  | nil => rfl
  | cons r rs ih =>
    by_cases named : r.frame = n
    · have lost : r.pinLost.frame = n := named
      rw [List.map_cons, if_pos named, List.filter_cons_of_neg (by simp [lost]), ih,
        List.filter_cons_of_neg (by simp [named])]
    · simp [named, ih]

theorem pinDropped_of_pinDown {s t : Station} (h : t.ftc = s.ftc.pinDown n) : PinDropped n s t := by
  refine ⟨fun r hr retiring last => ?_, fun kept => ?_, ?_⟩
  · have drops : s.ftc.pinDownDrops n = some r.buffer := by
      simp only [Ftc.pinDownDrops, hr, Option.bind_some, if_pos (And.intro retiring last)]
    rw [h]
    refine ⟨?_, ?_, fun b other => ?_⟩
    · rw [Ftc.pinDown_of_dropped hr ⟨retiring, last⟩, Ftc.dropRecord_records, Ftc.onRecord_records,
        List.filter_frame_pinLost]
    · rw [Ftc.pinDown_get, if_pos drops, BufDesc.release_eq]
    · rw [Ftc.pinDown_get, if_neg]
      rw [drops]
      exact fun same => other (Option.some.inj same).symm
  · have stays : s.ftc.pinDown n = s.ftc.onRecord n FrameRecord.pinLost :=
      Ftc.pinDown_of_kept fun r hr ⟨retiring, last⟩ =>
        (kept r hr).elim (fun other => other retiring) fun more => absurd last (Nat.not_le.mpr more)
    rw [h, stays]
    exact ⟨rfl, Ftc.onRecord_records _ _ _⟩
  · rw [h]
    exact Ftc.pinDown_eq n s.ftc

end

/-! ## The end of a read record -/

section
variable {p : Nat} {tag : Byte} {s : Station} {k : ReadRecord}

theorem Station.endRead_of_held (hk : s.rbe.find? (ReadRecord.isOf p tag) = some k) : s.endRead p tag =
    (s.onRbe (List.filter fun r => !r.isOf p tag)).onFtc (Ftc.pinDown k.frame) := by
  simp only [Station.endRead, hk]

theorem Station.endRead_of_none (none : s.rbe.find? (ReadRecord.isOf p tag) = none) : s.endRead p tag = s := by
  simp only [Station.endRead, none]

theorem ReadRecord.find_isOf_eq_none_iff (p : Nat) (tag : Byte) (rs : List ReadRecord) :
    rs.find? (ReadRecord.isOf p tag) = none ↔ ∀ d ∈ rs, d.requester = p → d.tag ≠ tag := by
  simp [ReadRecord.isOf]

/-- Ended or not there, no record of the requester and the tag is left. -/
theorem Station.endRead_rbe (p : Nat) (tag : Byte) (s : Station) :
    (s.endRead p tag).rbe = s.rbe.filter fun r => !r.isOf p tag := by
  cases hk : s.rbe.find? (ReadRecord.isOf p tag) with
  | some k =>
    rw [Station.endRead_of_held hk]
    rfl
  | none =>
    rw [Station.endRead_of_none hk]
    refine (List.filter_eq_self.mpr fun r hr => ?_).symm
    simpa using List.find?_eq_none.mp hk r hr

/-! ## READ_CANCEL (R170, R171) -/

theorem readCancelStands_of_record {r : Receiving} (hm : r.message = some (.readCancel tag))
    (member : s.mbr.state = .member) (hk : s.rbe.find? (ReadRecord.isOf r.sender tag) = some k) :
    readCancelStands r s = ((s.endRead r.sender tag).onTbi (Tbi.removeWaiting (TxMsg.isReplyOf r.sender tag))).onMar
      fun a => { a with burst := a.burst.map (Burst.cancelRead r.sender tag) } := by
  have held : s.rbe.any (ReadRecord.isOf r.sender tag) = true := by
    exact List.any_eq_true.mpr ⟨k, List.mem_of_find?_eq_some hk, List.find?_some hk⟩
  simp only [readCancelStands, hm]
  exact if_pos ⟨member, held⟩

theorem readCancelStands_of_none {r : Receiving} (hm : r.message = some (.readCancel tag))
    (idle : s.mbr.state ≠ .member ∨ ∀ k ∈ s.rbe, k.requester = r.sender → k.tag ≠ tag) :
    readCancelStands r s = s := by
  simp only [readCancelStands, hm]
  refine if_neg fun ⟨member, held⟩ => ?_
  obtain ⟨k, hk, requester, named⟩ := (ReadRecord.any_isOf_iff _ _ _).mp held
  exact idle.elim (fun other => other member) fun none => none k hk requester named

theorem Burst.cancelRead_eq (p : Nat) (tag : Byte) (b : Burst) : b.cancelRead p tag =
    { b with dropped := b.dropped || match b.work with
      | .read _ q g => q == p && g == tag
      | _ => false } := by
  obtain ⟨w, d⟩ := b
  cases w with
  | read sp q g =>
    by_cases named : q = p ∧ g = tag
    · simp [Burst.cancelRead, named]
    · simp only [Burst.cancelRead, if_neg named]
      have other : (q == p && g == tag) = false := by simpa using named
      simp [other]
  | _ => simp [Burst.cancelRead]

theorem TxMsg.isReplyOf_eq (p : Nat) (tag : Byte) (m : TxMsg) : (!m.isReplyOf p tag) = match m with
    | .readReply b => !(b.requester.toNat == p && b.tag == tag)
    | _ => true := by
  cases m <;> simp [TxMsg.isReplyOf]

/-! ## The own READ_REPLY (R168) -/

/-- A read record with one reply of it confirmed. -/
def ReadRecord.confirmed (p : Nat) (tag : Byte) (k : ReadRecord) : ReadRecord :=
  if k.isOf p tag then { k with unconfirmed := k.unconfirmed - 1 } else k

theorem ReadRecord.confirmed_isOf (p : Nat) (tag : Byte) (k : ReadRecord) :
    (k.confirmed p tag).isOf p tag = k.isOf p tag := by
  unfold ReadRecord.confirmed
  split <;> rfl

theorem ReadRecord.confirmed_frame (p : Nat) (tag : Byte) (k : ReadRecord) : (k.confirmed p tag).frame = k.frame := by
  unfold ReadRecord.confirmed
  split <;> rfl

theorem ReadRecord.filter_confirmed (p : Nat) (tag : Byte) (rs : List ReadRecord) :
    (rs.map (ReadRecord.confirmed p tag)).filter (fun r => !r.isOf p tag) = rs.filter fun r => !r.isOf p tag := by
  induction rs with
  | nil => rfl
  | cons r rs ih =>
    rw [List.map_cons, List.filter_cons, List.filter_cons, ReadRecord.confirmed_isOf, ih]
    cases named : r.isOf p tag with
    | true => rfl
    | false => simp [ReadRecord.confirmed, named]

theorem readReplyStands_of_other {r : Receiving} {b : ReplyBody} (hm : r.message = some (.readReply b))
    (other : r.own = false) : readReplyStands r s = s := by
  simp only [readReplyStands, hm, other, Bool.false_eq_true, if_false]

theorem readReplyStands_of_own {r : Receiving} {b : ReplyBody} (hm : r.message = some (.readReply b))
    (own : r.own = true) : readReplyStands r s =
      if b.last then (s.onRbe (List.map (ReadRecord.confirmed b.requester.toNat b.tag))).endRead b.requester.toNat b.tag
      else s.onRbe (List.map (ReadRecord.confirmed b.requester.toNat b.tag)) := by
  simp only [readReplyStands, hm, own, if_true]
  rfl

theorem ReadRecord.find_confirmed (p : Nat) (tag : Byte) (rs : List ReadRecord) :
    (rs.map (ReadRecord.confirmed p tag)).find? (ReadRecord.isOf p tag) =
      (rs.find? (ReadRecord.isOf p tag)).map (ReadRecord.confirmed p tag) := by
  simp only [List.find?_map, Function.comp_def, ReadRecord.confirmed_isOf]

end

end Sys2Proof.Machine
end

section
/-! PROOF. READ_CANCEL and READ_REPLY settled (R168, R170, R171). -/

namespace Sys2Proof.Machine

theorem Tbi.removeReplies_queue (p : Nat) (tag : Byte) (t : Tbi) :
    (t.removeWaiting (TxMsg.isReplyOf p tag)).queue = t.queue.filter fun d =>
      d.status == .sending || match d.msg with
        | .readReply b => !(b.requester.toNat == p && b.tag == tag)
        | _ => true :=
  List.filter_congr fun d _ => congrArg (d.status == .sending || ·) (TxMsg.isReplyOf_eq p tag d.msg)

theorem Mar.cancelRead_burst (p : Nat) (tag : Byte) (a : Mar) :
    a.burst.map (Burst.cancelRead p tag) = a.burst.map fun b =>
      { b with dropped := b.dropped || match b.work with
        | .read _ q g => q == p && g == tag
        | _ => false } :=
  Option.map_congr fun b _ => Burst.cancelRead_eq p tag b

/-- Settles O56: the record cancelled, and the reply confirmed. -/
theorem cancelsAndRepliesEndTheirRecords : Obligations.CancelsAndRepliesEndTheirRecords := by
  refine ⟨fun h tag s ho => ?_, fun h b s => ⟨fun ho => ?_, fun e ho => ?_⟩⟩
  · have touched : Touches [.tbi, .rbe, .mar, .ftc] s.toStation (standsOf .readCancel
        (passedRecord .readCancel h (.readCancel tag) false .nothing) (s.toStation.onTbi Tbi.passedBy)) :=
      .step (touches_onTbi _ _) (touches_readCancelStands _ _) (by decide) (by decide)
    refine ⟨_, exec_passedStands (k := .readCancel) ho rfl, fun idle => ?_, fun k member hk => ?_⟩
    · have stays := readCancelStands_of_none (s := s.toStation.onTbi Tbi.passedBy)
        (r := passedRecord .readCancel h (.readCancel tag) false .nothing) rfl idle
      rw [standsOf, stays]
      exact ⟨rfl, .of_touches (touches_onTbi _ _)⟩
    · have stands := readCancelStands_of_record (s := s.toStation.onTbi Tbi.passedBy)
        (r := passedRecord .readCancel h (.readCancel tag) false .nothing) rfl member hk
      have ended := Station.endRead_of_held (s := s.toStation.onTbi Tbi.passedBy) hk
      refine ⟨?_, ?_, ?_, pinDropped_of_pinDown ?_, .of_touches touched⟩ <;>
        rw [State.putStation_toStation, standsOf, stands]
      · exact Station.endRead_rbe _ _ _
      · rw [Station.onMar_tbi, Station.onTbi_tbi, (touches_endRead _ _ _).tbi (by decide)]
        exact congrArg (fun q => { s.tbi.passedBy with queue := q }) (Tbi.removeReplies_queue _ _ _)
      · rw [Station.onMar_mar, Station.onTbi_mar, (touches_endRead _ _ _).mar (by decide)]
        exact congrArg (fun q => { s.mar with burst := q }) (Mar.cancelRead_burst _ _ _)
      · exact congrArg Station.ftc ended
  · refine ⟨_, exec_passedStands (k := .readReply) ho rfl, ?_, ?_⟩ <;>
      rw [standsOf, readReplyStands_of_other rfl rfl]
    · rfl
    · exact .of_touches (touches_onTbi _ _)
  · have touched : Touches [.tbi, .rbe, .ftc] s.toStation (standsOf .readReply
        (passedRecord .readReply h (.readReply b) true .nothing) (s.toStation.onTbi Tbi.ownPassed)) :=
      .step (touches_onTbi _ _) (touches_readReplyStands _ _) (by decide) (by decide)
    have stands := readReplyStands_of_own (s := s.toStation.onTbi Tbi.ownPassed)
      (r := passedRecord .readReply h (.readReply b) true .nothing) rfl rfl
    refine ⟨_, exec_ownStands (k := .readReply) ho, ?_, fun more => ?_, fun last => ?_, .of_touches touched⟩
    · exact (touches_readReplyStands _ _).tbi (by decide)
    · rw [State.putStation_toStation, standsOf, stands, more]
      refine ⟨List.map_congr_left fun d _ => ?_, rfl⟩
      simp [ReadRecord.confirmed, ReadRecord.isOf]
    · rw [State.putStation_toStation, standsOf, stands, last]
      refine ⟨(Station.endRead_rbe _ _ _).trans (ReadRecord.filter_confirmed _ _ _),
        fun k hk => pinDropped_of_pinDown ?_, fun none => ?_⟩
      · have found := (ReadRecord.find_confirmed b.requester.toNat b.tag s.rbe).trans (congrArg (Option.map _) hk)
        have ended := Station.endRead_of_held (s := (s.toStation.onTbi Tbi.ownPassed).onRbe
          (List.map (ReadRecord.confirmed b.requester.toNat b.tag))) found
        rw [ReadRecord.confirmed_frame] at ended
        exact congrArg Station.ftc ended
      · have missing := (ReadRecord.find_confirmed b.requester.toNat b.tag s.rbe).trans
          (congrArg (Option.map _) ((ReadRecord.find_isOf_eq_none_iff _ _ _).mpr none))
        have ended := Station.endRead_of_none (s := (s.toStation.onTbi Tbi.ownPassed).onRbe
          (List.map (ReadRecord.confirmed b.requester.toNat b.tag))) missing
        exact (congrArg Station.ftc ended :)

end Sys2Proof.Machine
end

section
/-! PROOF. STATUS_QUERY and STATUS_REPORT (R14, R175, R176, R177). -/

namespace Sys2Proof.Machine

section
variable {s : Station} {r : Receiving} {x : Byte} {clear : Bool}

theorem Station.takeQuery_of_none (q : Nat) (clear : Bool) (none : s.stu.pendingReport = false) :
    s.takeQuery q clear = (s.onTbi (Tbi.push (.statusReport q clear))).setPendingReport true := by
  simp only [Station.takeQuery, none, Bool.false_eq_true, if_false]

theorem Station.takeQuery_of_pending (q : Nat) (clear : Bool) (pending : s.stu.pendingReport = true) :
    (s.takeQuery q clear).tbi = { s.tbi with queue := s.tbi.queue.map fun d =>
      match d.msg with
      | .statusReport _ c => ⟨.statusReport q (c || clear), d.status⟩
      | _ => d } ∧
    (s.takeQuery q clear).stu = s.stu := by
  unfold Station.takeQuery
  rw [if_pos pending]
  exact ⟨rfl, rfl⟩

theorem statusQueryStands_of_named (hm : r.message = some (.statusQuery x clear)) (named : x.toNat = s.number) :
    statusQueryStands r s = s.takeQuery r.sender clear := by
  simp only [statusQueryStands, hm, named, if_true]

theorem statusQueryStands_of_other (hm : r.message = some (.statusQuery x clear)) (other : x.toNat ≠ s.number) :
    statusQueryStands r s = s := by
  simp only [statusQueryStands, hm, if_neg other]

end

/-- Settles O57: the query entered or merged, and the report that has gone by. -/
theorem queriesQueueOrMergeOneReport : Obligations.QueriesQueueOrMergeOneReport := by
  refine ⟨fun h x clear s ho => ?_, fun h q record s => ⟨fun ho => ?_, fun e ho => ?_⟩⟩
  · have touched : Touches [.tbi, .stu] s.toStation (standsOf .statusQuery
        (passedRecord .statusQuery h (.statusQuery x clear) false .nothing) (s.toStation.onTbi Tbi.passedBy)) :=
      .step (touches_onTbi _ _) (touches_statusQueryStands _ _) (by decide) (by decide)
    have taken (named : x.toNat = s.number) := statusQueryStands_of_named (s := s.toStation.onTbi Tbi.passedBy)
      (r := passedRecord .statusQuery h (.statusQuery x clear) false .nothing) rfl named
    refine ⟨_, exec_passedStands (k := .statusQuery) ho rfl, fun other => ?_, fun named none => ?_,
      fun named pending => ?_, .of_touches touched⟩ <;> rw [State.putStation_toStation, standsOf]
    · have stays := statusQueryStands_of_other (s := s.toStation.onTbi Tbi.passedBy)
        (r := passedRecord .statusQuery h (.statusQuery x clear) false .nothing) rfl other
      rw [stays]
      exact ⟨rfl, rfl⟩
    · rw [taken named, Station.takeQuery_of_none (s := s.toStation.onTbi Tbi.passedBy) _ _ none]
      exact ⟨rfl, rfl⟩
    · rw [taken named]
      exact Station.takeQuery_of_pending (s := s.toStation.onTbi Tbi.passedBy) _ _ pending
  · have stays : standsOf .statusReport (passedRecord .statusReport h (.statusReport q record) false .nothing)
        (s.toStation.onTbi Tbi.passedBy) = s.toStation.onTbi Tbi.passedBy := rfl
    refine ⟨_, exec_passedStands (k := .statusReport) ho rfl, ?_, ?_⟩ <;> rw [stays]
    · rfl
    · exact .of_touches (touches_onTbi _ _)
  · have stands : standsOf .statusReport (passedRecord .statusReport h (.statusReport q record) true .nothing)
        (s.toStation.onTbi Tbi.ownPassed) = (s.toStation.onTbi Tbi.ownPassed).setPendingReport false := rfl
    refine ⟨_, exec_ownStands (k := .statusReport) ho, ?_⟩
    rw [stands]
    exact ⟨rfl, rfl, .of_touches (.step (touches_onTbi _ _) (touches_onStu _ _) (by decide) (by decide))⟩

end Sys2Proof.Machine
end

section
/-! PROOF. What a sender drives reads back: bytes, words and bodies (R4, R183, R184). -/

namespace Sys2Proof

/-! ## Fields in bytes (11.3) -/

/-- Two adjoining runs of bits are one run. -/
theorem extract_append_extract {n : Nat} (w : BitVec n) (start len len' : Nat) :
    w.extractLsb' (start + len) len' ++ w.extractLsb' start len = w.extractLsb' start (len' + len) := by
  apply BitVec.eq_of_getLsbD_eq
  intro i hi
  simp only [BitVec.getLsbD_append, BitVec.getLsbD_extractLsb', hi, decide_true, Bool.true_and]
  by_cases low : i < len
  · simp [low]
  · have upper : i - len < len' := by omega
    have place : start + len + (i - len) = start + i := by omega
    simp [low, upper, place]

theorem hi8_append_lo8 (w : BitVec 16) : hi8 w ++ lo8 w = w :=
  (extract_append_extract w 0 8 8).trans BitVec.extractLsb'_eq_self

theorem bytes24_append (w : BitVec 24) :
    w.extractLsb' 16 8 ++ w.extractLsb' 8 8 ++ w.extractLsb' 0 8 = w := by
  rw [show w.extractLsb' 16 8 ++ w.extractLsb' 8 8 = w.extractLsb' 8 16 from extract_append_extract w 8 8 8]
  exact (extract_append_extract w 0 8 16).trans BitVec.extractLsb'_eq_self

theorem bytes32_append (w : BitVec 32) :
    w.extractLsb' 24 8 ++ w.extractLsb' 16 8 ++ w.extractLsb' 8 8 ++ w.extractLsb' 0 8 = w := by
  rw [show w.extractLsb' 24 8 ++ w.extractLsb' 16 8 = w.extractLsb' 16 16 from extract_append_extract w 16 8 8,
    show w.extractLsb' 16 16 ++ w.extractLsb' 8 8 = w.extractLsb' 8 24 from extract_append_extract w 8 8 16]
  exact (extract_append_extract w 0 8 24).trans BitVec.extractLsb'_eq_self

theorem readPartySet_bytes64 (w : BitVec 64) : readPartySet (bytes64 w) = some w := by
  refine congrArg some ?_
  rw [show w.extractLsb' 56 8 ++ w.extractLsb' 48 8 = w.extractLsb' 48 16 from extract_append_extract w 48 8 8,
    show w.extractLsb' 48 16 ++ w.extractLsb' 40 8 = w.extractLsb' 40 24 from extract_append_extract w 40 8 16,
    show w.extractLsb' 40 24 ++ w.extractLsb' 32 8 = w.extractLsb' 32 32 from extract_append_extract w 32 8 24,
    show w.extractLsb' 32 32 ++ w.extractLsb' 24 8 = w.extractLsb' 24 40 from extract_append_extract w 24 8 32,
    show w.extractLsb' 24 40 ++ w.extractLsb' 16 8 = w.extractLsb' 16 48 from extract_append_extract w 16 8 40,
    show w.extractLsb' 16 48 ++ w.extractLsb' 8 8 = w.extractLsb' 8 56 from extract_append_extract w 8 8 48]
  exact (extract_append_extract w 0 8 56).trans BitVec.extractLsb'_eq_self

theorem nibbles_append (a b : BitVec 4) :
    (a ++ b : BitVec 8).extractLsb' 4 4 = a ∧ (a ++ b : BitVec 8).extractLsb' 0 4 = b := by
  constructor <;> (apply BitVec.eq_of_getLsbD_eq; intro i hi)
  · rw [BitVec.getLsbD_extractLsb', BitVec.getLsbD_append]
    simp [hi]
  · rw [BitVec.getLsbD_extractLsb', BitVec.getLsbD_append]
    simp [hi]

theorem flagByte_ne (b : Bool) : (flagByte b != 0) = b := by
  cases b <;> rfl

theorem readPixels_bytes (ps : List Pixel) : readPixels (ps.flatMap Pixel.bytes) = some ps := by
  induction ps with
  | nil => rfl
  | cons p ps ih =>
    rw [List.flatMap_cons]
    exact congrArg (Option.map (p :: ·)) ih

/-! ## The arbitration word (R183) -/

theorem Kind.party_lt {k : Kind} {p : Nat} (h : k.senderFits p = true) : p < 64 := by
  have bound : p ≤ 63 := by
    cases k <;> simp only [Kind.senderFits, decide_eq_true_eq] at h <;> omega
  omega

end Sys2Proof

namespace Sys2Proof.Machine

theorem wordParty_arbWord (k : Kind) {p : Nat} (hp : p < 64) : wordParty (arbWord k.cls p) = p := by
  rw [wordParty_eq, arbWord_toNat k hp]
  omega

theorem wordClass_arbWord (k : Kind) {p : Nat} (hp : p < 64) : wordClass (arbWord k.cls p) = k.cls := by
  rw [wordClass_eq, arbWord_toNat k hp]
  omega

theorem fits_arbWord {k : Kind} {p : Nat} (h : k.senderFits p = true) : k.fits (arbWord k.cls p) = true := by
  rw [Kind.fits, wordClass_arbWord k (Kind.party_lt h), wordParty_arbWord k (Kind.party_lt h), h, beq_self_eq_true,
    Bool.and_self]

/-! ## Bodies (11.3, R184) -/

section
variable {h : WriteHead} {rest : List Byte}

theorem readHead_bytes (h : WriteHead) (rest : List Byte) : readHead (h.bytes ++ rest) = some (h, rest) := by
  obtain ⟨op, mask⟩ := nibbles_append h.op h.mask
  simp only [WriteHead.bytes, bytes16, List.cons_append, List.nil_append, readHead, hi8_append_lo8, op, mask]

theorem readRect_bytes (mk : BitVec 16 → BitVec 16 → BitVec 16 → BitVec 16 → Message) (x y w h : BitVec 16) :
    readRect mk (bytes16 x ++ bytes16 y ++ bytes16 w ++ bytes16 h) = some (mk x y w h) := by
  simp only [bytes16, List.cons_append, List.nil_append, readRect, hi8_append_lo8]

theorem readWord_bytes (mk : BitVec 16 → Message) (w : BitVec 16) : readWord mk (bytes16 w) = some (mk w) := by
  simp only [bytes16, readWord, hi8_append_lo8]

theorem readBeacon_body (t : Byte) (r : Refresh) (m : StationSet) (last : Option FrameNo) :
    readBeacon (Message.beacon t r m last).body = some (.beacon t r m last) := by
  cases last with
  | none =>
    simp only [Message.body, bytes16, bytes32, List.cons_append, List.nil_append, readBeacon, readPresent,
      hi8_append_lo8, bytes32_append, if_true, Option.map_some]
  | some n =>
    simp only [Message.body, bytes16, bytes32, List.cons_append, List.nil_append, readBeacon, readPresent,
      hi8_append_lo8, bytes32_append, if_true, Option.map_some]

theorem readReply_body {b : ReplyBody} (counted : b.pixels.length = b.count.toNat) :
    readReply (Message.readReply b).body = some (.readReply b) := by
  simp only [Message.body, bytes16, bytes24, List.cons_append, List.nil_append, readReply, readPixels_bytes,
    counted, if_true, hi8_append_lo8, bytes24_append, flagByte_ne]

theorem readOpen_body {n : FrameNo} {mode : Byte} {colour : Option Pixel} {sources : PartySet}
    (coloured : colour.isSome = true ↔ mode = 0) :
    readOpen (Message.openFrame n mode colour sources).body = some (.openFrame n mode colour sources) := by
  cases colour with
  | none =>
    have other : mode ≠ 0 := fun h => absurd (coloured.mpr h) (by decide)
    simp only [Message.body, bytes16, List.cons_append, List.nil_append, readOpen, if_neg other,
      readPartySet_bytes64, hi8_append_lo8, Option.map_some]
  | some p =>
    have clear : mode = 0 := coloured.mp rfl
    simp only [Message.body, bytes16, Pixel.bytes, List.cons_append, List.nil_append, readOpen, if_pos clear,
      readPartySet_bytes64, hi8_append_lo8, Option.map_some]

theorem readFill_body (h : WriteHead) (p : Pixel) : readFill (Message.fill h p).body = some (.fill h p) := by
  simp only [Message.body, readFill, readHead_bytes, Pixel.bytes]

theorem readRun_body {h : WriteHead} {n : BitVec 16} {ps : List Pixel} (counted : ps.length = n.toNat)
    (bounded : ps.length ≤ 16380) : readRun (Message.run h n ps).body = some (.run h n ps) := by
  have fits : n.toNat ≤ 16380 := counted ▸ bounded
  simp only [Message.body, List.append_assoc, readRun, readHead_bytes, bytes16, List.cons_append, List.nil_append,
    readPixels_bytes, hi8_append_lo8, counted, fits, and_self, if_true]

theorem readRequest_body (t : Byte) (sel : Option FrameNo) (x y w ht : BitVec 16) :
    readRequest (Message.readRequest t sel x y w ht).body = some (.readRequest t sel x y w ht) := by
  cases sel with
  | none =>
    have rect := readRect_bytes (.readRequest t none) x y w ht
    simp only [bytes16, List.cons_append, List.nil_append] at rect
    simp only [Message.body, bytes16, List.cons_append, List.nil_append, readRequest, rect, if_true]
    exact if_neg (by decide)
  | some n =>
    have rect := readRect_bytes (.readRequest t (some n)) x y w ht
    simp only [bytes16, List.cons_append, List.nil_append] at rect
    simp only [Message.body, bytes16, List.cons_append, List.nil_append, readRequest, hi8_append_lo8, rect, if_true]

end

/-- The body of a message that may be sent reads back field by field. -/
theorem readBody_body {m : Message} {p : Nat} (h : m.sendable p) : readBody m.kind m.body = some m := by
  obtain ⟨-, -, fields⟩ := h
  cases m with
  | tick r => exact readWord_bytes .tick r
  | suspect x => rfl
  | join t => rfl
  | leave => rfl
  | wallReset => rfl
  | orderLeave x => rfl
  | orderRejoin x => rfl
  | drop p => rfl
  | ready n => exact readWord_bytes .ready n
  | beacon t r m last => exact readBeacon_body t r m last
  | readReply b => exact readReply_body fields
  | statusReport q record => exact if_pos fields
  | openFrame n mode colour sources => exact readOpen_body fields
  | closeFrame n => exact readWord_bytes .closeFrame n
  | fill h p => exact readFill_body h p
  | run h n ps => exact readRun_body fields.1 fields.2
  | readRequest t sel x y w h => exact readRequest_body t sel x y w h
  | readCancel t => rfl
  | statusQuery x c => exact congrArg (fun b => some (Message.statusQuery x b)) (flagByte_ne c)

/-- Whatever a sender drives reads back at every station. -/
theorem readMessage_sentBy {m : Message} {p : Nat} (h : m.sendable p) :
    readMessage m.kind (m.sentBy p) = some m ∧ wordParty (m.sentBy p).word = p := by
  have body := readBody_body h
  obtain ⟨sender, short, -⟩ := h
  have length : (BitVec.ofNat 16 m.body.length).toNat = m.body.length := by
    rw [BitVec.toNat_ofNat]
    exact Nat.mod_eq_of_lt (by omega)
  exact ⟨(if_pos ⟨rfl, length.symm, fits_arbWord sender⟩).trans body, wordParty_arbWord m.kind (Kind.party_lt sender)⟩

end Sys2Proof.Machine
end

section
/-! PROOF. The report record: its fields in order, their widths and values, and its length (R178, R185). -/

namespace Sys2Proof.Machine

/-! ## Numbers in bytes -/

theorem bigEndian_one (v : Nat) : bigEndian 1 v = [BitVec.ofNat 8 v] := rfl

theorem bigEndian_two (v : Nat) : bigEndian 2 v = [BitVec.ofNat 8 (v / 256), BitVec.ofNat 8 v] := rfl

theorem bigEndian_four (v : Nat) : bigEndian 4 v =
    [BitVec.ofNat 8 (v / 256 / 256 / 256), BitVec.ofNat 8 (v / 256 / 256), BitVec.ofNat 8 (v / 256),
      BitVec.ofNat 8 v] := rfl

theorem bigEndian_length (n v : Nat) : (bigEndian n v).length = n := by
  induction n generalizing v with
  | zero => rfl
  | succ n ih => rw [bigEndian, List.length_append, ih, List.length_singleton]

/-- Eight bits of a word are the byte of the number above them. -/
theorem extract_byte {n : Nat} (w : BitVec n) (start : Nat) :
    w.extractLsb' start 8 = BitVec.ofNat 8 (w.toNat / 2 ^ start) := by
  apply BitVec.eq_of_toNat_eq
  rw [BitVec.extractLsb'_toNat, BitVec.toNat_ofNat, Nat.shiftRight_eq_div_pow]

theorem bytes16_eq (w : BitVec 16) : bytes16 w = bigEndian 2 w.toNat := by
  rw [bytes16, hi8, lo8, extract_byte, extract_byte, bigEndian_two, Nat.pow_zero, Nat.div_one,
    show 2 ^ 8 = 256 from rfl]

theorem bytes32_eq (w : BitVec 32) : bytes32 w = bigEndian 4 w.toNat := by
  rw [bytes32, extract_byte, extract_byte, extract_byte, extract_byte, bigEndian_four, Nat.pow_zero, Nat.div_one]
  simp only [Nat.div_div_eq_div_mul, Nat.reduceMul, Nat.reducePow]

/-- A number in a 16-bit field, of whatever size. -/
theorem bytes16_ofNat (v : Nat) : bytes16 (BitVec.ofNat 16 v) = bigEndian 2 v := by
  rw [bytes16_eq, BitVec.toNat_ofNat, bigEndian_two, bigEndian_two]
  have high : BitVec.ofNat 8 (v % 2 ^ 16 / 256) = BitVec.ofNat 8 (v / 256) := by
    apply BitVec.eq_of_toNat_eq
    rw [BitVec.toNat_ofNat, BitVec.toNat_ofNat]
    omega
  have low : BitVec.ofNat 8 (v % 2 ^ 16) = BitVec.ofNat 8 v := by
    apply BitVec.eq_of_toNat_eq
    rw [BitVec.toNat_ofNat, BitVec.toNat_ofNat]
    omega
  rw [high, low]

theorem flagByte_eq (b : Bool) : flagByte b = BitVec.ofNat 8 b.toNat := by
  cases b <;> rfl

/-! ## Fields (11.4) -/

/-- Fields, each in its width. -/
def encoded (fs : List (Nat × Nat)) : List Byte := fs.flatMap fun f => bigEndian f.1 f.2

theorem encoded_nil : encoded [] = [] := rfl

theorem encoded_cons (n v : Nat) (fs : List (Nat × Nat)) : encoded ((n, v) :: fs) = bigEndian n v ++ encoded fs :=
  List.flatMap_cons

theorem encoded_append (fs gs : List (Nat × Nat)) : encoded (fs ++ gs) = encoded fs ++ encoded gs :=
  List.flatMap_append

theorem encoded_flatMap {α : Type} (f : α → List (Nat × Nat)) (l : List α) :
    encoded (l.flatMap f) = l.flatMap fun x => encoded (f x) := List.flatMap_assoc

theorem encoded_length (fs : List (Nat × Nat)) : (encoded fs).length = (fs.map Prod.fst).sum := by
  induction fs with
  | nil => rfl
  | cons f fs ih =>
    obtain ⟨n, v⟩ := f
    rw [encoded_cons, List.length_append, bigEndian_length, ih, List.map_cons, List.sum_cons]

theorem StationState.code_eq (st : StationState) : st.code =
    BitVec.ofNat 8 ([StationState.listening, .joining, .member, .idleOut, .rejected].idxOf st) := by
  cases st <;> decide

theorem BufState.code_eq (st : BufState) : st.code =
    BitVec.ofNat 8 ([BufState.free, .bound, .heldImage, .releasing].idxOf st) := by
  cases st <;> decide

theorem FrameState.code_eq (st : FrameState) : st.code = BitVec.ofNat 8 ([FrameState.init, .filling, .sealed,
    .drained, .ready, .committed, .shown, .retiring].idxOf st) := by
  cases st <;> decide

theorem optionalFrame_eq (n : Option FrameNo) : optionalFrame n = encoded (presenceFields n) := by
  cases n with
  | none => rfl
  | some n =>
    rw [optionalFrame, bytes16_eq]
    rfl

theorem BufDesc.reportBytes_eq (d : BufDesc) : d.reportBytes = encoded d.reportFields := by
  have frame : (if d.state = .bound then d.frame.getD 0 else 0).toNat =
      if d.state = .bound then (d.frame.getD 0).toNat else 0 := by split <;> rfl
  rw [BufDesc.reportBytes, BufState.code_eq, bytes16_eq, frame]
  rfl

theorem FrameRecord.reportBytes_eq (r : FrameRecord) : r.reportBytes = encoded r.reportFields := by
  have sources : (r.missingSources.extractLsb' 32 32).toNat = r.missingSources.toNat / 2 ^ 32 := by
    rw [BitVec.extractLsb'_toNat, Nat.shiftRight_eq_div_pow]
    exact Nat.mod_eq_of_lt (by have := r.missingSources.isLt; omega)
  rw [FrameRecord.reportBytes, bytes16_eq, FrameState.code_eq, flagByte_eq, bytes32_eq, bytes32_eq, sources]
  rfl

theorem ReadRecord.reportBytes_eq (r : ReadRecord) : r.reportBytes = encoded r.reportFields := by
  rw [ReadRecord.reportBytes, bytes16_eq]
  simp [ReadRecord.reportFields, encoded_cons, encoded_nil, bigEndian_one]

theorem Station.tileByte_eq (s : Station) : s.tileByte =
    BitVec.ofNat 8 (32 * s.tile.column.toNat + 4 * s.tile.row.toNat + s.straps.format.toNat) := by
  obtain ⟨format, row, column⟩ : s.straps.format.toNat < 4 ∧ s.straps.row.toNat < 8 ∧ s.straps.column.toNat < 8 :=
    ⟨s.straps.format.isLt, s.straps.row.isLt, s.straps.column.isLt⟩
  have position : (s.straps.column ++ s.straps.row).toNat = 8 * s.straps.column.toNat + s.straps.row.toNat := by
    rw [BitVec.toNat_append, ← Nat.shiftLeft_add_eq_or_of_lt row, Nat.shiftLeft_eq]
    omega
  apply BitVec.eq_of_toNat_eq
  rw [Station.tileByte, BitVec.toNat_append, ← Nat.shiftLeft_add_eq_or_of_lt format, Nat.shiftLeft_eq, position,
    BitVec.toNat_ofNat, Station.tile]
  dsimp only
  omega

theorem encoded_counters (c : Counters) : encoded (Counter.all.map fun k => (2, c.get k)) =
    Counter.all.flatMap fun k => bigEndian 2 (c.get k) :=
  List.flatMap_map _ _ _

/-! ## The record (R178, R185) -/

/-- The fields before the count of frame records. -/
def Station.reportHead (s : Station) : List (Nat × Nat) :=
  [(1, [StationState.listening, .joining, .member, .idleOut, .rejected].idxOf s.mbr.state),
   (1, s.number), (1, 32 * s.tile.column.toNat + 4 * s.tile.row.toNat + s.straps.format.toNat),
   (1, s.straps.profile.toNat), (2, s.ftc.refresh.toNat), (1, s.scn.freeRun.toNat),
   (4, s.mbr.memberSet.toNat), (1, s.mbr.dutyHolder.getD 255), (1, s.tbi.voidStreak)] ++
  presenceFields s.ftc.lastOpened ++ presenceFields s.ftc.f0 ++
  s.ftc.buffers.b0.reportFields ++ s.ftc.buffers.b1.reportFields ++ s.ftc.buffers.b2.reportFields

theorem Station.reportFields_eq (s : Station) : s.reportFields =
    s.reportHead ++ ((1, s.ftc.records.length) :: (s.ftc.records.flatMap FrameRecord.reportFields ++
      ([(1, s.inq.length), (2, (s.inq.map fun r => r.paint.stored).sum)] ++ ((1, s.rbe.length) ::
        (s.rbe.flatMap ReadRecord.reportFields ++ Counter.all.map fun c => (2, s.stu.counters.get c)))))) := by
  simp only [Station.reportFields, Station.reportHead, List.append_assoc, List.cons_append, List.nil_append]
  rfl

theorem Station.report_bytes_eq (s : Station) : s.report.bytes = encoded s.reportFields := by
  have station : s.straps.station.setWidth 8 = BitVec.ofNat 8 s.number := (BitVec.ofNat_toNat 8 s.straps.station).symm
  have profile : s.straps.profile.setWidth 8 = BitVec.ofNat 8 s.straps.profile.toNat :=
    (BitVec.ofNat_toNat 8 s.straps.profile).symm
  rw [Station.reportFields_eq]
  simp only [ReportRecord.bytes, Station.report, storedPixels, StationState.code_eq, station, Station.tileByte_eq, profile,
    bytes16_eq s.ftc.refresh, flagByte_eq, bytes32_eq, optionalFrame_eq, BufDesc.reportBytes_eq,
    funext FrameRecord.reportBytes_eq, bytes16_ofNat _, funext ReadRecord.reportBytes_eq]
  simp only [Station.reportHead, encoded_append, encoded_cons, encoded_flatMap, encoded_counters, bigEndian_one,
    List.append_assoc, List.cons_append, List.nil_append]
  cases s.mbr.dutyHolder with
  | none => rfl
  | some x => rfl

/-! ## Its length (R185) -/

theorem widths_flatMap {α : Type} {f : α → List (Nat × Nat)} {n : Nat} (hf : ∀ x, ((f x).map Prod.fst).sum = n)
    (l : List α) : ((l.flatMap f).map Prod.fst).sum = n * l.length := by
  induction l with
  | nil => rfl
  | cons x l ih =>
    rw [List.flatMap_cons, List.map_append, List.sum_append, hf, ih, List.length_cons]
    rw [Nat.mul_succ, Nat.add_comm]

theorem presenceFields_widths (n : Option FrameNo) : ((presenceFields n).map Prod.fst).sum = 3 := by
  cases n <;> rfl

theorem Station.reportHead_length (s : Station) : (encoded s.reportHead).length = 28 := by
  rw [encoded_length]
  simp only [Station.reportHead, List.map_append, List.sum_append, presenceFields_widths]
  rfl

theorem records_length (rs : List FrameRecord) : (encoded (rs.flatMap FrameRecord.reportFields)).length = 12 * rs.length := by
  rw [encoded_length]
  exact widths_flatMap (f := FrameRecord.reportFields) (fun _ => rfl) rs

theorem reads_length (rs : List ReadRecord) : (encoded (rs.flatMap ReadRecord.reportFields)).length = 5 * rs.length := by
  rw [encoded_length]
  exact widths_flatMap (f := ReadRecord.reportFields) (fun _ => rfl) rs

theorem counters_length (c : Counters) : (encoded (Counter.all.map fun k => (2, c.get k))).length = 42 := by
  rw [encoded_length, List.map_map]
  simp only [Function.comp_def, List.map_const', List.sum_replicate_nat]
  rfl

/-- The bytes of the record, split at its two counts. -/
theorem Station.report_bytes_split (s : Station) : ∃ mid tail : List Byte, mid.length = 3 ∧ tail.length = 42 ∧
    s.report.bytes = encoded s.reportHead ++ BitVec.ofNat 8 s.ftc.records.length ::
      (encoded (s.ftc.records.flatMap FrameRecord.reportFields) ++ (mid ++ BitVec.ofNat 8 s.rbe.length ::
        (encoded (s.rbe.flatMap ReadRecord.reportFields) ++ tail))) := by
  refine ⟨encoded [(1, s.inq.length), (2, (s.inq.map fun r => r.paint.stored).sum)],
    encoded (Counter.all.map fun c => (2, s.stu.counters.get c)), encoded_length _, counters_length _, ?_⟩
  rw [Station.report_bytes_eq, Station.reportFields_eq]
  simp only [encoded_append, encoded_cons, encoded_nil, bigEndian_one, List.cons_append, List.nil_append,
    List.append_nil]

theorem getD_after {pre rest : List Byte} {n : Nat} (h : pre.length = n) (x d : Byte) :
    (pre ++ x :: rest).getD n d = x := by
  subst h
  simp

theorem Station.report_length (s : Station) :
    s.report.bytes.length = 75 + 12 * s.ftc.records.length + 5 * s.rbe.length := by
  obtain ⟨mid, tail, hmid, htail, bytes⟩ := s.report_bytes_split
  simp only [bytes, List.length_append, List.length_cons, Station.reportHead_length, records_length, reads_length, hmid,
    htail]
  omega

/-- The counts that the record declares are those of the lists in it. -/
theorem Station.report_fits (s : Station) (records : s.ftc.records.length < 256) (reads : s.rbe.length < 256) :
    reportLengthFits s.report.bytes = true := by
  have length := s.report_length
  obtain ⟨mid, tail, hmid, -, bytes⟩ := s.report_bytes_split
  have count {n : Nat} (h : n < 256) : (BitVec.ofNat 8 n).toNat = n := Nat.mod_eq_of_lt h
  have first : (s.report.bytes.getD 28 0).toNat = s.ftc.records.length := by
    rw [bytes, getD_after s.reportHead_length, count records]
  have second : (s.report.bytes.getD (32 + 12 * s.ftc.records.length) 0).toNat = s.rbe.length := by
    rw [bytes, ← List.cons_append, ← List.append_assoc, ← List.append_assoc, getD_after, count reads]
    simp only [List.length_append, List.length_cons, Station.reportHead_length, records_length, hmid]
    omega
  unfold reportLengthFits
  dsimp only
  rw [first, second, length]
  exact beq_self_eq_true _

/-! ## The member set (R24) -/

theorem stationBit_getLsbD {i x : Nat} (hx : x < 32) : (stationBit i).getLsbD x = true ↔ i = x := by
  simp only [stationBit, BitVec.getLsbD_shiftLeft, BitVec.getLsbD_one, hx, decide_true, Bool.true_and,
    Bool.and_eq_true, Bool.not_eq_true', decide_eq_false_iff_not, decide_eq_true_eq]
  omega

theorem rosterSet_getLsbD (es : List RosterEntry) {i x : Nat} (hx : x < 32) :
    (rosterSet i es).getLsbD x = true ↔ ∃ k e, i + k = x ∧ es[k]? = some e ∧ e.member = true := by
  induction es generalizing i with
  | nil => simp [rosterSet]
  | cons e es ih =>
    have bit : (if e.member then stationBit i else 0).getLsbD x = true ↔ i = x ∧ e.member = true := by
      cases e.member with
      | true => simp only [if_true, stationBit_getLsbD hx, and_true]
      | false => simp
    rw [rosterSet, BitVec.getLsbD_or, Bool.or_eq_true, bit, ih]
    constructor
    · rintro (⟨rfl, member⟩ | ⟨k, d, place, hd, member⟩)
      · exact ⟨0, e, rfl, rfl, member⟩
      · exact ⟨k + 1, d, by omega, hd, member⟩
    · rintro ⟨k, d, place, hd, member⟩
      cases k with
      | zero =>
        obtain rfl := Option.some.inj hd
        exact .inl ⟨place, member⟩
      | succ k => exact .inr ⟨k, d, by omega, hd, member⟩

theorem Mbr.memberSet_getLsbD (m : Mbr) {x : Nat} (hx : x < 32) : m.memberSet.getLsbD x = m.isMember x := by
  rw [Bool.eq_iff_iff, Mbr.memberSet, rosterSet_getLsbD _ hx, Mbr.isMember_iff]
  simp

/-- Settles O58: what is sent reads back, and the report's layout, length and members. -/
theorem messagesReadAsTheyWereSent : Obligations.MessagesReadAsTheyWereSent :=
  ⟨fun _ _ h => readMessage_sentBy h, fun s =>
    ⟨s.report_bytes_eq, fun _ hx => s.mbr.memberSet_getLsbD hx, s.report_length, s.report_fits⟩⟩

end Sys2Proof.Machine
end
